-- ==== Sys2Proof/Word.lean ====
section
/-! DEFINITION. The word of the Troika core: the tryte (rules R7, R80), its symbols (R9) and its trits (R7), with
the normalisation `norm` (R8) and nothing else. The conversions between the three encodings are in
`Machine/Numeral.lean`, the arithmetic and logic in `Machine/TryteAlu.lean`. -/

namespace Sys2Proof

/-- A tryte: an integer in [-9841, 9841] (rules R7, R80). The raw value is "the canonical internal form"; the two
bounds are part of the type, so a value outside the centered range cannot be written. -/
@[ext] structure Tryte where
  raw : Int
  lower : -9841 ≤ raw
  upper : raw ≤ 9841
deriving DecidableEq, Repr

/-- The zero tryte. -/
def Tryte.zero : Tryte := ⟨0, by decide, by decide⟩

/-- `norm n` (rules R8, R81): the integer `n`, of any magnitude, wrapped into the centered range. Lean's `%` on `Int`
with a positive modulus is the floor remainder of rule R7. -/
def Tryte.norm (n : Int) : Tryte :=
  ⟨(n + 9841) % 19683 - 9841, by omega, by omega⟩

/-- A symbol of the 27-character alphabet, identified with its position 0 to 26 (rule R9). Characters appear only at
the string interfaces. -/
abbrev Tribble := Fin 27

/-- `dig s` (rule R9): the signed digit of a symbol, its position minus 13, in [-13, 13]. -/
def dig (s : Tribble) : Int := (s.val : Int) - 13

/-- A trit (rule R7): one ternary digit, -1, 0 or +1. -/
inductive Trit where
  | neg
  | zero
  | pos
deriving DecidableEq, Repr

/-- The integer a trit is. -/
def Trit.toInt : Trit → Int
  | .neg => -1
  | .zero => 0
  | .pos => 1

end Sys2Proof
end

