-- ==== Sys2Proof/Config.lean ====
section
/-! DEFINITION. The parameters of rule R5 of spec/00_scope.md, each at the value the spec decided for it. No rule of
the model uses a literal where the spec uses a parameter's name; the accessors that turn these parameters into
addresses and operand classes (`pcAddr`, `zeroAddr`, `classify`, …) stand in `Decode.lean` and `Machine/Ops.lean`.
These are configuration, not state (rule R29). The opcode map (`OPCODE_MAP`, rule R67) is the table of `Decode.lean`. -/

namespace Sys2Proof.Config

/-- `ALPHABET`: the 27 tribble characters in position order. DESIGN CHOICE of the spec (D1), log entry 1. -/
def alphabet : List Char :=
  ['A', 'B', 'C', 'D', 'E', 'F', 'G', 'H', 'I', 'J', 'K', 'L', 'M', '0',
   'N', 'O', 'P', 'Q', 'R', 'S', 'T', 'U', 'V', 'W', 'X', 'Y', 'Z']

/-- `TRIT_ALPHABET`: the characters of trit -1, 0, +1. DESIGN CHOICE of the spec (D2), log entry 1. -/
def tritAlphabet : List Char := ['-', '0', '+']

/-- `PC_SYM`, the symbol `P` whose address is the program counter (D4, log entry 2). -/
def pcSym : Tribble := 16

/-- `SP_SYM`, the symbol `S` whose address is the conventional stack pointer (D4, log entry 2). -/
def spSym : Tribble := 19

/-- `ZERO_SYM`, the symbol `Z` whose address is the discard/zero register (D4, log entry 2). -/
def zeroSym : Tribble := 26

/-- `DISCARD_SYM`, the symbol `0`: the reserved operand marker DISCARD (D5, log entry 2). -/
def discardSym : Tribble := 13

/-- `INDIRECT_SYM`, the symbol `I`: the reserved operand marker INDIRECT (D5, log entry 2). -/
def indirectSym : Tribble := 8

/-- `STACK_STEP`: what a push adds to the stack register after storing (D8, log entry 4). -/
def stackStep : Int := -1

/-- `HAS_DIV`: whether the divide opcode is offered (D18, log entry 5). `stepWith` of `Machine/Cycle.lean` runs the
machine under either setting; `step` is the machine at this one. -/
def hasDiv : Bool := false

/-- The roundings `DIV_ROUND` may name (D18). -/
inductive DivRound where
  | floor
  | truncate
deriving DecidableEq, Repr

/-- `DIV_ROUND`: the rounding of a quotient (D18, log entry 5). -/
def divRound : DivRound := .floor

end Sys2Proof.Config
end

