-- ==== Sys2Proof/Syntax.lean ====
section
/-! DEFINITION. The instructions: one constructor per row of spec/opcode_table.json, in the table's order. An
instruction holds what the instruction tryte holds (rule R60): the opcode and the two operand symbols, each operand
symbol classified once (rule R61). Extension trytes are no part of it: they are fetched from memory while the
instruction runs, by the same read-then-advance primitive (rules R62, R121). -/

namespace Sys2Proof

/-- The class of an operand symbol (rules R61, R123): the two reserved markers, or one of the 25 other symbols, which
names the register at its digit. -/
inductive Operand where
  | direct (r : Tribble)
  | discard
  | indirect
deriving DecidableEq, Repr

/-- The instructions. `h` is the high operand, `l` the low one. Where the opcode decodes a symbol as an operand it is
an `Operand`; in the signed-digit role (rules R65, R66) and where the symbol is ignored or not decoded (rules R182,
R183) it is the plain symbol. -/
inductive Instr where
  | add (h l : Operand)
  | slt (h l : Operand)
  | cal (h l : Operand)
  | div (h l : Operand)
  | seq (h l : Operand)
  | unimpF (h l : Tribble)
  | sge (h l : Operand)
  | hwi (h l : Tribble)
  | ldi (h : Operand) (k : Tribble)
  | jmp (h l : Tribble)
  | adi (h : Operand) (k : Tribble)
  | ldx (h l : Operand)
  | mov (h l : Operand)
  | unimp0 (h l : Tribble)
  | and (h l : Operand)
  | pop (h l : Operand)
  | psh (h l : Operand)
  | unimpQ (h l : Tribble)
  | orr (h l : Operand)
  | sub (h l : Operand)
  | tri (h l : Operand)
  | sne (h l : Operand)
  | unimpV (h l : Tribble)
  | stx (h l : Operand)
  | mul (h l : Operand)
  | unimpY (h l : Tribble)
  | unimpZ (h l : Tribble)
deriving DecidableEq, Repr

end Sys2Proof
end

