-- ==== Sys2Proof/Machine/Characters.lean ====
section
/-! DEFINITION. The character classes of the loader's text (rule R195) and of the alphabet's constraints (rule R6). -/

namespace Sys2Proof.Machine

/-- The six ASCII white-space characters of rule R195: space, tab, line feed, carriage return, form feed, vertical
tab (D25). -/
def whiteSpace : List Char :=
  [' ', Char.ofNat 9, Char.ofNat 10, Char.ofNat 13, Char.ofNat 12, Char.ofNat 11]

/-- A lower-case letter `a` to `z` (rules R6, R195). -/
def isLowerCase (c : Char) : Bool := decide (97 ≤ c.toNat) && decide (c.toNat ≤ 122)

/-- A letter `a` to `z` in upper case, any other character as it is (rule R195). -/
def upperCase (c : Char) : Char := if isLowerCase c then Char.ofNat (c.toNat - 32) else c

end Sys2Proof.Machine
end

