-- ==== Sys2Proof/WellFormed.lean ====
section
/-! DEFINITION. Which instruction terms an instruction tryte can spell, and the constraints of rule R6 on the
configuration. -/

namespace Sys2Proof

open Machine

/-- A direct operand names one of the 25 symbols that are neither marker (rules R22, R61). -/
def Operand.wellFormed : Operand → Bool
  | .direct r => decide (r ≠ Config.discardSym) && decide (r ≠ Config.indirectSym)
  | .discard => true
  | .indirect => true

/-- An instruction is well formed when each of its operands is: "for an assigned opcode every one of the 27 * 27
operand-symbol pairs is legal" (rule R69), so nothing else is asked of it. -/
def Instr.wellFormed : Instr → Bool
  | .add h l => h.wellFormed && l.wellFormed
  | .slt h l => h.wellFormed && l.wellFormed
  | .cal h l => h.wellFormed && l.wellFormed
  | .div h l => h.wellFormed && l.wellFormed
  | .seq h l => h.wellFormed && l.wellFormed
  | .unimpF _ _ => true
  | .sge h l => h.wellFormed && l.wellFormed
  | .hwi _ _ => true
  | .ldi h _ => h.wellFormed
  | .jmp _ _ => true
  | .adi h _ => h.wellFormed
  | .ldx h l => h.wellFormed && l.wellFormed
  | .mov h l => h.wellFormed && l.wellFormed
  | .unimp0 _ _ => true
  | .and h l => h.wellFormed && l.wellFormed
  | .pop h l => h.wellFormed && l.wellFormed
  | .psh h l => h.wellFormed && l.wellFormed
  | .unimpQ _ _ => true
  | .orr h l => h.wellFormed && l.wellFormed
  | .sub h l => h.wellFormed && l.wellFormed
  | .tri h l => h.wellFormed && l.wellFormed
  | .sne h l => h.wellFormed && l.wellFormed
  | .unimpV _ _ => true
  | .stx h l => h.wellFormed && l.wellFormed
  | .mul h l => h.wellFormed && l.wellFormed
  | .unimpY _ _ => true
  | .unimpZ _ _ => true

/-- The constraints of rule R6 on an alphabet: 27 pairwise distinct characters, none of them white space, none a
lower-case letter. -/
def alphabetWellFormed (cs : List Char) : Bool :=
  decide (cs.length = 27) && decide cs.Nodup && cs.all (fun c => !whiteSpace.contains c && !isLowerCase c)

/-- The constraint of rule R6 on a trit alphabet: three pairwise distinct characters. -/
def tritAlphabetWellFormed (cs : List Char) : Bool :=
  decide (cs.length = 3) && decide cs.Nodup

/-- The constraint of rule R6 on the three control-register symbols and the two markers: pairwise distinct. -/
def reservedSymbolsWellFormed (syms : List Tribble) : Bool := decide syms.Nodup

/-- The constraint of rule R6 on the stack step: +1 or -1. -/
def stackStepWellFormed (n : Int) : Bool := decide (n = 1) || decide (n = -1)

/-- All of rule R6 but for the opcode map, whose distinctness is that of `Instr.opcode` (`Decode.lean`). -/
def configWellFormed : Bool :=
  alphabetWellFormed Config.alphabet && tritAlphabetWellFormed Config.tritAlphabet &&
    reservedSymbolsWellFormed
      [Config.pcSym, Config.spSym, Config.zeroSym, Config.discardSym, Config.indirectSym] &&
    stackStepWellFormed Config.stackStep

end Sys2Proof
end

