-- ==== Sys2Proof/Machine/Numeral.lean ====
section
/-! DEFINITION. The Tryte unit, part one (spec/40_numeral_converter.md): construction and the three encodings of a
tryte, with every conversion between them. All are pure functions (rule R94). At the string interfaces a text is a
list of characters. -/

namespace Sys2Proof.Machine

/-! ## Construction -/

/-- `construct(n)` (rule R81): "normalizes any integer into the centered range; total, never fails". -/
def construct (n : Int) : Tryte := Tryte.norm n

/-- `value(t)` (rule R82). -/
def value (t : Tryte) : Int := t.raw

/-- The unbiased value `u = t + 9841` of rule R9, in [0, 19682]. It is also the storage slot of the address `t`
(rule R21). -/
def unbiased (t : Tryte) : Nat := (t.raw + 9841).toNat

theorem unbiased_lt (t : Tryte) : unbiased t < 19683 := by
  have := t.lower; have := t.upper; unfold unbiased; omega

/-- The value of signed digits, most significant first, in a positional system of the given base. -/
def positional (base : Int) (digits : List Int) : Int :=
  digits.foldl (fun acc d => base * acc + d) 0

/-! ## Errors of the conversions -/

/-- `DecodeError` (rules R92, R211): raised only by the conversions from text and raw digits, "never silently
corrected". `α` is what the input is made of: characters, or the integers of `fromRawTrits`. Safe: the conversion returns
no value and changes no state. -/
inductive DecodeError (α : Type) where
  /-- Raised by `fromTribbles`, `fromTrits` and `fromRawTrits` on an input of the wrong length, which is checked first
  (rule R92). Safe. -/
  | wrongLength
  /-- Raised by the same three on the leftmost element that is not in the recognised alphabet. It carries that element
  (rules R84, R87, R88) and its position, counted from 0 (rule R211; log entry 12). Safe. -/
  | unknownSymbol (position : Nat) (element : α)
deriving DecidableEq, Repr

/-- Every element converted in order, or the leftmost one that does not convert, with its position (rule R92). -/
def convertAll {α β : Type} (f : α → Option β) (position : Nat) : List α → Except (DecodeError α) (List β)
  | [] => .ok []
  | x :: xs =>
    match f x with
    | none => .error (.unknownSymbol position x)
    | some y =>
      match convertAll f (position + 1) xs with
      | .ok ys => .ok (y :: ys)
      | .error e => .error e

/-- The form the three failing conversions share (rule R92): the length, then the elements from the left, then the
value of the digits. -/
def convertDigits {α : Type} (len : Nat) (base : Int) (f : α → Option Int) (xs : List α) :
    Except (DecodeError α) Tryte :=
  if xs.length = len then
    match convertAll f 0 xs with
    | .ok ds => .ok (Tryte.norm (positional base ds))
    | .error e => .error e
  else .error .wrongLength

/-- The place of the first occurrence of a character in an alphabet. -/
def indexIn (c : Char) : List Char → Option Nat
  | [] => none
  | d :: ds => if c = d then some 0 else (indexIn c ds).map (· + 1)

/-! ## The tribble encoding -/

/-- The most significant tribble symbol of a tryte (rules R9, R83). -/
def sym2 (t : Tryte) : Tribble := ⟨unbiased t / 729, by have := unbiased_lt t; omega⟩

/-- The middle tribble symbol of a tryte (rules R9, R83). -/
def sym1 (t : Tryte) : Tribble := ⟨unbiased t / 27 % 27, Nat.mod_lt _ (by decide)⟩

/-- The least significant tribble symbol of a tryte (rules R9, R83). -/
def sym0 (t : Tryte) : Tribble := ⟨unbiased t % 27, Nat.mod_lt _ (by decide)⟩

/-- The tryte with the three given symbols, most significant first, in the first form of rule R84: the positions read
in base 27, re-centered by the bias. -/
def ofSyms (p2 p1 p0 : Tribble) : Tryte :=
  ⟨729 * (p2.val : Int) + 27 * (p1.val : Int) + (p0.val : Int) - 9841, by omega, by omega⟩

/-- `tribbleString(t)` (rule R83): the three symbols, most significant first. -/
def tribbleString (t : Tryte) : List Tribble := [sym2 t, sym1 t, sym0 t]

/-- The character of a symbol (rule R93). -/
def symChar (s : Tribble) : Char := Config.alphabet.getD s.val ' '

/-- The symbol of a character, or none for an unknown one (rule R93). Matching is exact (D27). -/
def symOfChar (c : Char) : Option Tribble :=
  match indexIn c Config.alphabet with
  | some p => if h : p < 27 then some ⟨p, h⟩ else none
  | none => none

/-- The tribble string as characters (rule R93). -/
def tribbleText (t : Tryte) : List Char := (tribbleString t).map symChar

/-- `fromTribbles(s)` (rule R84), by the signed digits of the three characters. -/
def fromTribbles (s : List Char) : Except (DecodeError Char) Tryte :=
  convertDigits 3 27 (fun c => (symOfChar c).map dig) s

/-! ## The trit encoding -/

/-- The trit a raw digit denotes (rule R88: raw trit = trit + 1; D3, log entry 11). -/
def tritOfRaw : Nat → Trit
  | 0 => .neg
  | 1 => .zero
  | _ => .pos

/-- The raw digit of a trit (rule R89). -/
def rawOfTrit : Trit → Nat
  | .neg => 0
  | .zero => 1
  | .pos => 2

/-- `trit(t, i)` (rules R9, R86): the trit of weight `3^i`, from the base-3 digits of the unbiased value. -/
def trit (t : Tryte) (i : Nat) : Trit := tritOfRaw (unbiased t / 3 ^ i % 3)

/-- `tritString(t)` (rule R86): the nine trits, most significant first. -/
def tritString (t : Tryte) : List Trit := [8, 7, 6, 5, 4, 3, 2, 1, 0].map (trit t)

/-- The tryte with the given trits, most significant first: the sum of rule R87. -/
def ofTrits (ts : List Trit) : Tryte := Tryte.norm (positional 3 (ts.map Trit.toInt))

/-- The character of a trit (rule R86). -/
def tritChar (x : Trit) : Char := Config.tritAlphabet.getD (rawOfTrit x) ' '

/-- The trit of a character, or none for an unknown one (rule R87). -/
def tritOfChar (c : Char) : Option Trit :=
  match indexIn c Config.tritAlphabet with
  | some 0 => some .neg
  | some 1 => some .zero
  | some 2 => some .pos
  | _ => none

/-- The trit string as characters (rule R86). -/
def tritText (t : Tryte) : List Char := (tritString t).map tritChar

/-- `fromTrits(s)` (rule R87). -/
def fromTrits (s : List Char) : Except (DecodeError Char) Tryte :=
  convertDigits 9 3 (fun c => (tritOfChar c).map Trit.toInt) s

/-- The trit of a raw digit given as an integer, or none outside 0, 1 and 2 (rule R88). -/
def tritOfRawDigit (r : Int) : Option Int :=
  if 0 ≤ r ∧ r ≤ 2 then some (r - 1) else none

/-- `fromRawTrits(ds)` (rule R88). -/
def fromRawTrits (ds : List Int) : Except (DecodeError Int) Tryte := convertDigits 9 3 tritOfRawDigit ds

/-- `rawTrits(t)` (rule R89): the base-3 digits of the unbiased value, most significant first. -/
def rawTrits (t : Tryte) : List Int := (tritString t).map (fun x => x.toInt + 1)

/-- The three trits of one tribble symbol, most significant first (rule R85). -/
def tribbleTrits (s : Tribble) : List Trit := [9, 3, 1].map (fun w => tritOfRaw (s.val / w % 3))

end Sys2Proof.Machine
end

