-- ==== Sys2Proof/Decode.lean ====
section
/-! DEFINITION. The decoder (rules R60, R61, R67, R68, R122, R123) and, after it, the encoder. An instruction is one
instruction tryte; every tryte splits into three symbols (rule R60) and every opcode symbol is a row of
spec/opcode_table.json, so the decoder is total on trytes. From text it rejects by name (`DecodeError`), and from a
table word that is no tryte it answers none. -/

namespace Sys2Proof

open Machine

/-- `class(s)` (rules R61, R123). -/
def classify (s : Tribble) : Operand :=
  if s = Config.discardSym then .discard
  else if s = Config.indirectSym then .indirect
  else .direct s

/-- The instruction with the given opcode and operand symbols: the opcode map of rule R67 with the roles of rule
R68. -/
def ofSymbols (op h l : Tribble) : Instr :=
  match op.val with
  | 0 => .add (classify h) (classify l)
  | 1 => .slt (classify h) (classify l)
  | 2 => .cal (classify h) (classify l)
  | 3 => .div (classify h) (classify l)
  | 4 => .seq (classify h) (classify l)
  | 5 => .unimpF h l
  | 6 => .sge (classify h) (classify l)
  | 7 => .hwi h l
  | 8 => .ldi (classify h) l
  | 9 => .jmp h l
  | 10 => .adi (classify h) l
  | 11 => .ldx (classify h) (classify l)
  | 12 => .mov (classify h) (classify l)
  | 13 => .unimp0 h l
  | 14 => .and (classify h) (classify l)
  | 15 => .pop (classify h) (classify l)
  | 16 => .psh (classify h) (classify l)
  | 17 => .unimpQ h l
  | 18 => .orr (classify h) (classify l)
  | 19 => .sub (classify h) (classify l)
  | 20 => .tri (classify h) (classify l)
  | 21 => .sne (classify h) (classify l)
  | 22 => .unimpV h l
  | 23 => .stx (classify h) (classify l)
  | 24 => .mul (classify h) (classify l)
  | 25 => .unimpY h l
  | _ => .unimpZ h l  -- position 26, the only one left

/-- Decode of an instruction tryte (rule R122): the split into three symbols, then the opcode map. -/
def decode (w : Tryte) : Instr := ofSymbols (sym2 w) (sym1 w) (sym0 w)

/-- Decode of one instruction tryte written as tribble text; a text that is no tryte is rejected by name
(rule R84). -/
def decodeText (s : List Char) : Except (DecodeError Char) Instr :=
  match fromTribbles s with
  | .ok w => .ok (decode w)
  | .error e => .error e

/-- The opcode symbol of an instruction (rule R67). -/
def Instr.opcode : Instr → Tribble
  | .add _ _ => 0
  | .slt _ _ => 1
  | .cal _ _ => 2
  | .div _ _ => 3
  | .seq _ _ => 4
  | .unimpF _ _ => 5
  | .sge _ _ => 6
  | .hwi _ _ => 7
  | .ldi _ _ => 8
  | .jmp _ _ => 9
  | .adi _ _ => 10
  | .ldx _ _ => 11
  | .mov _ _ => 12
  | .unimp0 _ _ => 13
  | .and _ _ => 14
  | .pop _ _ => 15
  | .psh _ _ => 16
  | .unimpQ _ _ => 17
  | .orr _ _ => 18
  | .sub _ _ => 19
  | .tri _ _ => 20
  | .sne _ _ => 21
  | .unimpV _ _ => 22
  | .stx _ _ => 23
  | .mul _ _ => 24
  | .unimpY _ _ => 25
  | .unimpZ _ _ => 26

/-- Whether a configuration offers the instruction's opcode: the divide opcode is assigned only when `HAS_DIV` is true
(rules R67, R160); the six unassigned symbols are instructions that raise (rule R183). -/
def Instr.offered (hasDiv : Bool) : Instr → Bool
  | .div _ _ => hasDiv
  | _ => true

/-- The symbol an operand is written with (rule R71). -/
def Operand.symbol : Operand → Tribble
  | .direct r => r
  | .discard => Config.discardSym
  | .indirect => Config.indirectSym

/-- The high symbol of an instruction (rule R68). -/
def Instr.high : Instr → Tribble
  | .unimpF h _ | .hwi h _ | .jmp h _ | .unimp0 h _ | .unimpQ h _ | .unimpV h _ | .unimpY h _ | .unimpZ h _ => h
  | .add h _ | .slt h _ | .cal h _ | .div h _ | .seq h _ | .sge h _ | .ldi h _ | .adi h _ | .ldx h _ | .mov h _
  | .and h _ | .pop h _ | .psh h _ | .orr h _ | .sub h _ | .tri h _ | .sne h _ | .stx h _ | .mul h _ => h.symbol

/-- The low symbol of an instruction (rule R68). -/
def Instr.low : Instr → Tribble
  | .unimpF _ l | .hwi _ l | .jmp _ l | .unimp0 _ l | .unimpQ _ l | .unimpV _ l | .unimpY _ l | .unimpZ _ l
  | .ldi _ l | .adi _ l => l
  | .add _ l | .slt _ l | .cal _ l | .div _ l | .seq _ l | .sge _ l | .ldx _ l | .mov _ l
  | .and _ l | .pop _ l | .psh _ l | .orr _ l | .sub _ l | .tri _ l | .sne _ l | .stx _ l | .mul _ l => l.symbol

/-- The instruction tryte of an instruction (rule R60: `w = 729 * dig(op) + 27 * dig(h) + dig(l)`). Extension trytes
are data of the program, not of the instruction, and are no part of it. -/
def encode (i : Instr) : Tryte := ofSyms i.opcode i.high i.low

/-- The extension trytes a destination-reference operand takes (rule R62). -/
def Operand.dstExt : Operand → Nat
  | .direct _ => 0
  | .discard => 0
  | .indirect => 1

/-- The extension trytes a value operand takes, and an operand in both roles (rule R62). -/
def Operand.valExt : Operand → Nat
  | .direct _ => 0
  | .discard => 1
  | .indirect => 1

/-- The extension trytes an instruction takes (rules R62, R68); its length in trytes is one more. -/
def Instr.extCount : Instr → Nat
  | .psh h l | .cal h l => h.dstExt + l.valExt
  | .pop h l => h.dstExt + l.dstExt
  | .add h l | .div h l | .ldx h l | .mov h l | .and h l | .orr h l | .sub h l | .stx h l | .mul h l
  | .slt h l | .sge h l | .seq h l | .sne h l => h.valExt + l.valExt
  | .tri h l => h.valExt + l.valExt + 1
  | .ldi h _ | .adi h _ => h.dstExt
  | .hwi _ _ | .jmp _ _ | .unimpF _ _ | .unimp0 _ _ | .unimpQ _ _ | .unimpV _ _ | .unimpY _ _ | .unimpZ _ _ => 0

/-- The length of an instruction in trytes, 1 to 4 (rules R62, R68). -/
def Instr.length (i : Instr) : Nat := 1 + i.extCount

/-- The tryte a number stands for where a tool numbers instruction words: spec/opcode_table.json gives a row no bits,
only `match`, with `(w + 9841) div 729 = match` (rule R73), so the number is the unbiased value and `n / 729` is the
row's `match`. A number above 19682 is no tryte (log entry 10). -/
def tryteOfTableWord (n : Nat) : Option Tryte :=
  if h : n < 19683 then some ⟨(n : Int) - 9841, by omega, by omega⟩ else none

/-- The instruction the decoder reads from a table word (log entry 10). -/
def decodeTableWord (_nbits w : Nat) : Option Instr := (tryteOfTableWord w).map decode

end Sys2Proof
end

