-- ==== Sys2Proof/Machine/State.lean ====
section
/-! DEFINITION. The state of one Machine: one array `M` of 19683 trytes and nothing else (rule R20). The registers,
the program counter, the stack pointer and the zero register are cells of it (rules R22 to R25); there are no flags,
no status word, no hidden state (rules R26 to R29). -/

namespace Sys2Proof.Machine

/-- The memory array as plain data: the cells that do not hold zero, as pairs of a storage slot (rule R21, the address
plus 9841) and the tryte there. An unlisted slot holds the zero tryte, the reset content of every cell (rule R30).
A cell holds a tryte, not a byte, so the host's `Cell` does not fit (log entry 9). -/
abbrev Memory := List (Nat × Tryte)

/-- The machine's whole state (rule R20). -/
structure State where
  mem : Memory
deriving DecidableEq, Repr

/-- The state right after reset: every cell holds the zero tryte (rules R30, R191, R230). -/
def State.reset : State where
  mem := []

/-- The one error a step can raise (rules R120, R210). -/
inductive Fault where
  /-- `UnimplementedOpcode(sym)`: raised by `step` when the opcode symbol of the instruction tryte has no instruction
  (rules R129, R183, R212). It carries the symbol and the state the step leaves, in which only the program counter has
  advanced, so that the caller can go on from it (R218). Safe: the spec's own error (U5), log entry 8. -/
  | unimplementedOpcode (sym : Tribble) (left : State)
deriving DecidableEq, Repr

/-- What the model gives no meaning to. No step refuses. -/
inductive Refusal where
  /-- An instruction whose arm has no meaning yet: no arm of `exec` answers it. Safe. -/
  | notModelled (mnemonic : String)
  /-- A host `Read`, `Write` or `Load` with a raw index outside [-9841, 9841], which the spec refuses (rule R194,
  U9). Raised by the host transactions only. Safe. -/
  | indexOutsideDomain (index : Int)
deriving DecidableEq, Repr

/-- What one step answers. -/
abbrev Result := Host.Outcome State Fault Refusal

end Sys2Proof.Machine
end

