-- ==== Sys2Proof/Machine/Ops.lean ====
section
/-! DEFINITION. The named operations over memory and registers: the read and write primitives (rules R41, R42), the
program counter, `Fetch()` (R121), and the raising of `UnimplementedOpcode` with the resumption after it (R212, R217,
R218), which is all the exception machinery there is. -/

namespace Sys2Proof.Machine

/-! ## The memory array -/

/-- The tryte in a slot: an unlisted slot holds zero (rule R30). -/
def cellAt : Memory → Nat → Tryte
  | [], _ => Tryte.zero
  | (k', v) :: m, k => if k' = k then v else cellAt m k

/-- The memory without its entry for a slot. -/
def eraseCell (m : Memory) (k : Nat) : Memory := m.filter (fun e => decide (e.1 ≠ k))

/-- A new entry put before the first entry of a larger slot. -/
def insertCell : Memory → Nat → Tryte → Memory
  | [], k, v => [(k, v)]
  | (k', v') :: m, k, v => if k < k' then (k, v) :: (k', v') :: m else (k', v') :: insertCell m k v

/-- The memory with a tryte stored in a slot; storing zero leaves the slot unlisted. -/
def setCell (m : Memory) (k : Nat) (v : Tryte) : Memory :=
  if v = Tryte.zero then eraseCell m k else insertCell (eraseCell m k) k v

/-- Slots strictly rising from a bound. -/
def risingFrom (lo : Nat) : Memory → Bool
  | [] => true
  | (k, _) :: m => decide (lo ≤ k) && risingFrom (k + 1) m

/-- The canonical form: slots strictly rising, each a slot of the array (rule R21), no entry of the value an unlisted
slot reads as. -/
def Memory.wf (m : Memory) : Bool :=
  risingFrom 0 m && m.all (fun e => decide (e.1 < 19683) && decide (e.2 ≠ Tryte.zero))

/-! ## Addresses and the two access primitives -/

/-- The address a direct symbol names, its digit (rule R22). -/
def addrOf (s : Tribble) : Tryte := ⟨dig s, by unfold dig; omega, by unfold dig; omega⟩

/-- `PC_ADDR` (rule R23). -/
def pcAddr : Tryte := addrOf Config.pcSym

/-- `SP_ADDR` (rule R24). -/
def spAddr : Tryte := addrOf Config.spSym

/-- `ZERO_ADDR` (rule R25). -/
def zeroAddr : Tryte := addrOf Config.zeroSym

/-- `MemRead(a, 1)` (rule R41): every read goes through it. -/
def memRead (s : State) (a : Tryte) : Tryte :=
  if a = zeroAddr then Tryte.zero else cellAt s.mem (unbiased a)

/-- `MemWrite(a, 1, v)` (rule R42): every write goes through it. -/
def memWrite (s : State) (a v : Tryte) : State :=
  if a = zeroAddr then s else { s with mem := setCell s.mem (unbiased a) v }

/-- The register read `x[s]` (rule R10). -/
def regRead (s : State) (r : Tribble) : Tryte := memRead s (addrOf r)

/-- The register write `x[s] <- v` (rule R10). -/
def regWrite (s : State) (r : Tribble) (v : Tryte) : State := memWrite s (addrOf r) v

/-- The program counter (rules R10, R23). -/
def pc (s : State) : Tryte := memRead s pcAddr

/-- A jump: `pc <- t` (rules R10, R176). -/
def setPc (s : State) (t : Tryte) : State := memWrite s pcAddr t

/-- The address `n` places after `a`, wrapped (rules R23, R47). -/
def offsetBy (a : Tryte) (n : Int) : Tryte := Tryte.norm (a.raw + n)

/-- `Fetch()` (rule R121): the tryte at the program counter, and the state with the counter advanced by one. The read
comes before the advance. -/
def fetch (s : State) : Tryte × State :=
  (memRead s (pc s), setPc s (offsetBy (pc s) 1))

/-! ## The error of a step, and going on after it -/

/-- Raising `UnimplementedOpcode` (rules R129, R212, R217): nothing is saved, no mode changes, nothing is pushed; the
step ends and hands the caller the symbol and the state as it stands, whose counter the instruction fetch has already
advanced. -/
def raiseUnimplemented (sym : Tribble) (s : State) : Result := .fault (.unimplementedOpcode sym s)

/-- The state a step leaves, whether it completes or raises (rule R196: "the new state in either case"). Stepping on
from it is the resumption of rule R218; there is no return instruction. -/
def stateAfter : Result → Option State
  | .next s => some s
  | .fault (.unimplementedOpcode _ s) => some s
  | .refused _ => none

end Sys2Proof.Machine
end

