-- ==== Sys2Proof/Machine/Operands.lean ====
section
/-! DEFINITION. The operand-addressing-mode dispatcher: the three decode functions (rules R124 to R126), which turn a
classified operand symbol into an address or a value and fetch extension trytes as they go, and the decode sequences
the families share (rule R127). The high operand is handled completely before the low one (rules R127, R128). -/

namespace Sys2Proof.Machine

/-- `DecodeDst` (rule R124): an operand as a destination reference. -/
def decodeDst (o : Operand) (s : State) : Tryte × State :=
  match o with
  | .direct r => (addrOf r, s)
  | .discard => (zeroAddr, s)
  | .indirect => fetch s

/-- `DecodeVal` (rule R125): an operand as a value, its cell read now. -/
def decodeVal (o : Operand) (s : State) : Tryte × State :=
  match o with
  | .direct r => (memRead s (addrOf r), s)
  | .discard => fetch s
  | .indirect => (memRead (fetch s).2 (fetch s).1, (fetch s).2)

/-- A decoded operand that is both a destination reference and a value: the address, the value and the state after the
decode. -/
structure Both where
  addr : Tryte
  val : Tryte
  after : State

/-- `DecodeBoth` (rule R126): one resolution of the symbol gives both roles (D10, log entry 6). -/
def decodeBoth (o : Operand) (s : State) : Both :=
  match o with
  | .direct r => ⟨addrOf r, memRead s (addrOf r), s⟩
  | .discard => ⟨zeroAddr, (fetch s).1, (fetch s).2⟩
  | .indirect => ⟨(fetch s).1, memRead (fetch s).2 (fetch s).1, (fetch s).2⟩

/-- The operands of a binary value instruction (rule R150): the destination address, the two input values, and the
state after the decode. -/
structure BinaryOperands where
  dst : Tryte
  first : Tryte
  second : Tryte
  after : State

/-- The decode sequence of the binary value family (rules R127, R150). -/
def binaryOperands (h l : Operand) (s : State) : BinaryOperands :=
  let b := decodeBoth h s
  let v := decodeVal l b.after
  ⟨b.addr, b.val, v.1, v.2⟩

/-- A decoded pair of an address or value for the high operand and one for the low operand, with the state after. -/
structure Pair where
  high : Tryte
  low : Tryte
  after : State

/-- The decode sequence of push and call (rule R127): the stack register's address, then a value. -/
def dstThenVal (h l : Operand) (s : State) : Pair :=
  let d := decodeDst h s
  let v := decodeVal l d.2
  ⟨d.1, v.1, v.2⟩

/-- The decode sequence of pop (rule R127): the stack register's address, then a destination. -/
def dstThenDst (h l : Operand) (s : State) : Pair :=
  let d := decodeDst h s
  let e := decodeDst l d.2
  ⟨d.1, e.1, e.2⟩

/-- The decode sequence of the skip-predicates (rule R127): two values. -/
def valThenVal (h l : Operand) (s : State) : Pair :=
  let a := decodeVal h s
  let b := decodeVal l a.2
  ⟨a.1, b.1, b.2⟩

/-- The two-digit signed offset of a jump (rule R66). -/
def jumpOffset (h l : Tribble) : Int := 27 * dig h + dig l

end Sys2Proof.Machine
end

