-- ==== Sys2Proof/Machine/TryteAlu.lean ====
section
/-! DEFINITION. The Tryte unit, part two (spec/41_tryte_alu.md): arithmetic and tritwise logic. All are pure total
functions; no flag, no error, no state (rule R111). The comparisons of rule R108 are in `Machine/Flags.lean`. -/

namespace Sys2Proof.Machine

/-! ## Arithmetic -/

/-- `add(a, b)` (rule R100): the true sum, wrapped. -/
def add (a b : Tryte) : Tryte := Tryte.norm (a.raw + b.raw)

/-- `sub(a, b)` (rule R101): the true difference, wrapped. -/
def sub (a b : Tryte) : Tryte := Tryte.norm (a.raw - b.raw)

/-- `mul(a, b)` (rule R102): the true product, wrapped; there is no high half. -/
def mul (a b : Tryte) : Tryte := Tryte.norm (a.raw * b.raw)

/-- The quotient of two integers under the configured rounding (`DIV_ROUND`, D18). -/
def quotient (a b : Int) : Int :=
  match Config.divRound with
  | .floor => a.fdiv b
  | .truncate => a.tdiv b

/-- `div(a, b)` (rule R103): 0 when the divisor is 0, else the rounded quotient, normalised. -/
def div (a b : Tryte) : Tryte :=
  if b.raw = 0 then Tryte.zero else Tryte.norm (quotient a.raw b.raw)

/-! ## Tritwise logic -/

/-- The smaller of two trits. -/
def minTrit (x y : Trit) : Trit := if x.toInt ≤ y.toInt then x else y

/-- The larger of two trits. -/
def maxTrit (x y : Trit) : Trit := if x.toInt ≤ y.toInt then y else x

/-- A trit function applied place by place, the result reassembled "via the trit-string constructor" (rule R104). -/
def tritwise (f : Trit → Trit → Trit) (a b : Tryte) : Tryte :=
  ofTrits (List.zipWith f (tritString a) (tritString b))

/-- `and_(a, b)` (rule R104): trit by trit minimum. -/
def and_ (a b : Tryte) : Tryte := tritwise minTrit a b

/-- `or_(a, b)` (rule R105): trit by trit maximum. -/
def or_ (a b : Tryte) : Tryte := tritwise maxTrit a b

/-- A symmetric truth table over pairs of trits: its six independent entries (rules R106, R107). An asymmetric table
cannot be written (U8). -/
structure TruthTable where
  negNeg : Trit
  negZero : Trit
  negPos : Trit
  zeroZero : Trit
  zeroPos : Trit
  posPos : Trit
deriving DecidableEq, Repr

/-- The symmetric function a table denotes (rule R106). -/
def TruthTable.apply (f : TruthTable) : Trit → Trit → Trit
  | .neg, .neg => f.negNeg
  | .neg, .zero | .zero, .neg => f.negZero
  | .neg, .pos | .pos, .neg => f.negPos
  | .zero, .zero => f.zeroZero
  | .zero, .pos | .pos, .zero => f.zeroPos
  | .pos, .pos => f.posPos

/-- `genericTritwiseOp(a, b, f)` (rule R106). -/
def genericTritwiseOp (a b : Tryte) (f : TruthTable) : Tryte := tritwise f.apply a b

/-- `TableOf(t)` (rule R107): the six least significant trits in row-major order of the upper triangle; the three most
significant trits are ignored (D13, log entry 7). -/
def tableOf (t : Tryte) : TruthTable where
  negNeg := trit t 5
  negZero := trit t 4
  negPos := trit t 3
  zeroZero := trit t 2
  zeroPos := trit t 1
  posPos := trit t 0

end Sys2Proof.Machine
end

