-- ==== Sys2Proof/Machine/BinaryValue.lean ====
section
/-! DEFINITION. The binary value operations MOV ADD SUB MUL AND ORR TRI LDX STX DIV (spec/44_binary_value_ops.md). All
decode in the same way, whether or not they use all three results (rule R150, D14). No flag, no exception. In every
meaning `s` is the state after the instruction fetch. -/

namespace Sys2Proof.Machine

/-- The form most of the family shares (rule R150): decode, compute from the two input values, store at the
destination. -/
def binaryStore (f : Tryte → Tryte → Tryte) (h l : Operand) (s : State) : Result :=
  let o := binaryOperands h l s
  .next (memWrite o.after o.dst (f o.first o.second))

/-- `MOV h, l` (rule R151): the first input is read and ignored. -/
def execMov (h l : Operand) (s : State) : Result := binaryStore (fun _ b => b) h l s

/-- `ADD h, l` (rule R152). -/
def execAdd (h l : Operand) (s : State) : Result := binaryStore add h l s

/-- `SUB h, l` (rule R153): the high operand is the minuend. -/
def execSub (h l : Operand) (s : State) : Result := binaryStore sub h l s

/-- `MUL h, l` (rule R154). -/
def execMul (h l : Operand) (s : State) : Result := binaryStore mul h l s

/-- `AND h, l` (rule R155). -/
def execAnd (h l : Operand) (s : State) : Result := binaryStore and_ h l s

/-- `ORR h, l` (rule R156). -/
def execOrr (h l : Operand) (s : State) : Result := binaryStore or_ h l s

/-- `DIV h, l` (rule R160), the meaning where the divide opcode is offered; whether it is offered is `step`'s
business (rules R120, R160; log entry 5). -/
def execDiv (h l : Operand) (s : State) : Result := binaryStore div h l s

/-- `TRI h, l, table` (rule R157): the table tryte is fetched last, after both operands. -/
def execTri (h l : Operand) (s : State) : Result :=
  let o := binaryOperands h l s
  let t := fetch o.after
  .next (memWrite t.2 o.dst (genericTritwiseOp o.first o.second (tableOf t.1)))

/-- `LDX h, l` (rule R158, D15): the second input is the address that is read. -/
def execLdx (h l : Operand) (s : State) : Result :=
  let o := binaryOperands h l s
  .next (memWrite o.after o.dst (memRead o.after o.second))

/-- `STX h, l` (rule R159, D15): the first input is the address that is written; the decoded destination is not. -/
def execStx (h l : Operand) (s : State) : Result :=
  let o := binaryOperands h l s
  .next (memWrite o.after o.first o.second)

end Sys2Proof.Machine
end

