-- ==== Sys2Proof/Machine/Flags.lean ====
section
/-! DEFINITION. The hardware has no flags and no condition codes (rule R27). What stands in their place is here: the
comparisons of rule R108, four of which the skip-predicates make directly on two operand values, and the skip itself
(rule R171). -/

namespace Sys2Proof.Machine

/-- `a < b` on raw values (rules R108, R172). -/
def lessThan (a b : Tryte) : Bool := decide (a.raw < b.raw)

/-- `a >= b` on raw values (rules R108, R173). -/
def greaterOrEqual (a b : Tryte) : Bool := decide (b.raw ≤ a.raw)

/-- `a > b` on raw values (rule R108, one of its "other two orders"; no instruction uses it, the host may, R198). -/
def greaterThan (a b : Tryte) : Bool := decide (b.raw < a.raw)

/-- `a <= b` on raw values (rule R108, one of its "other two orders"; no instruction uses it, the host may, R198). -/
def lessOrEqual (a b : Tryte) : Bool := decide (a.raw ≤ b.raw)

/-- `a = b` on raw values (rules R108, R174). -/
def equal (a b : Tryte) : Bool := decide (a.raw = b.raw)

/-- `a != b` on raw values (rules R108, R175). -/
def notEqual (a b : Tryte) : Bool := decide (a.raw ≠ b.raw)

/-- The skip (rule R171): on success the counter, already past the instruction and its extension trytes, is advanced
by one tryte more. -/
def skipIf (success : Bool) (s : State) : State :=
  if success then setPc s (offsetBy (pc s) 1) else s

end Sys2Proof.Machine
end

