-- ==== Sys2Proof/Machine/Control.lean ====
section
/-! DEFINITION. The control transfers JMP, SLT, SGE, SEQ, SNE (spec/45_control_transfer.md). Every other transfer of
control is a write to the program counter's cell and needs nothing of its own (rule R176). In every meaning `s` is the
state after the instruction fetch. -/

namespace Sys2Proof.Machine

/-- `JMP off` (rule R170): the two symbols are digits; nothing is fetched. -/
def execJmp (h l : Tribble) (s : State) : Result := .next (setPc s (offsetBy (pc s) (jumpOffset h l)))

/-- The form the four skip-predicates share (rule R171). -/
def skipOn (pred : Tryte → Tryte → Bool) (h l : Operand) (s : State) : Result :=
  let o := valThenVal h l s
  .next (skipIf (pred o.high o.low) o.after)

/-- `SLT h, l` (rule R172). -/
def execSlt (h l : Operand) (s : State) : Result := skipOn lessThan h l s

/-- `SGE h, l` (rule R173). -/
def execSge (h l : Operand) (s : State) : Result := skipOn greaterOrEqual h l s

/-- `SEQ h, l` (rule R174). -/
def execSeq (h l : Operand) (s : State) : Result := skipOn equal h l s

/-- `SNE h, l` (rule R175). -/
def execSne (h l : Operand) (s : State) : Result := skipOn notEqual h l s

end Sys2Proof.Machine
end

