-- ==== Sys2Proof/Machine/SmallImmediate.lean ====
section
/-! DEFINITION. The small-immediate operations LDI and ADI, the hardware hook HWI, and the six unassigned opcode
symbols (spec/46_small_immediate_misc.md). In every meaning `s` is the state after the instruction fetch. -/

namespace Sys2Proof.Machine

/-- The small immediate of `LDI` and `ADI` (rule R65): the symbol's digit, already a tryte. -/
def smallImmediate (k : Tribble) : Tryte := addrOf k

/-- `LDI h, k` (rule R180). -/
def execLdi (h : Operand) (k : Tribble) (s : State) : Result :=
  let d := decodeDst h s
  .next (memWrite d.2 d.1 (smallImmediate k))

/-- `ADI h, k` (rule R181): one cell is source and destination, so the high symbol is a destination reference only
(D16, log entry 6). -/
def execAdi (h : Operand) (k : Tribble) (s : State) : Result :=
  let d := decodeDst h s
  .next (memWrite d.2 d.1 (add (memRead d.2 d.1) (smallImmediate k)))

/-- `HWI` (rule R182): a no-op; both symbols are ignored (D17). -/
def execHwi (_h _l : Tribble) (s : State) : Result := .next s

/-- The unassigned opcode symbol `F` (rule R183). -/
def execUnimpF (_h _l : Tribble) (s : State) : Result := raiseUnimplemented 5 s

/-- The unassigned opcode symbol `0` (rule R183). -/
def execUnimp0 (_h _l : Tribble) (s : State) : Result := raiseUnimplemented 13 s

/-- The unassigned opcode symbol `Q` (rule R183). -/
def execUnimpQ (_h _l : Tribble) (s : State) : Result := raiseUnimplemented 17 s

/-- The unassigned opcode symbol `V` (rule R183). -/
def execUnimpV (_h _l : Tribble) (s : State) : Result := raiseUnimplemented 22 s

/-- The unassigned opcode symbol `Y` (rule R183). -/
def execUnimpY (_h _l : Tribble) (s : State) : Result := raiseUnimplemented 25 s

/-- The unassigned opcode symbol `Z` (rule R183). -/
def execUnimpZ (_h _l : Tribble) (s : State) : Result := raiseUnimplemented 26 s

end Sys2Proof.Machine
end

