-- ==== Sys2Proof/Machine/Stack.lean ====
section
/-! DEFINITION. The stack operations PSH, POP, CAL (spec/43_stack_ops.md). The high operand selects the stack register
(rule R140, D9); no bound is checked and no exception is raised. In every meaning `s` is the state after the
instruction fetch. -/

namespace Sys2Proof.Machine

/-- The store and the adjustment that push and call share (rules R141, R143): the value is stored at the stack
address `p`, then the stack register becomes `p + STACK_STEP`, computed from the `p` read before the store (D20). -/
def pushAt (sa v : Tryte) (s : State) : State :=
  memWrite (memWrite s (memRead s sa) v) sa (offsetBy (memRead s sa) Config.stackStep)

/-- The undoing of the adjustment (rule R142): the new stack address. -/
def popAddress (sa : Tryte) (s : State) : Tryte := offsetBy (memRead s sa) (-Config.stackStep)

/-- `PSH h, l` (rule R141). -/
def execPsh (h l : Operand) (s : State) : Result :=
  let o := dstThenVal h l s
  .next (pushAt o.high o.low o.after)

/-- `POP h, l` (rule R142): the stack register is written before the cell is read, and the destination last. -/
def execPop (h l : Operand) (s : State) : Result :=
  let o := dstThenDst h l s
  let p := popAddress o.high o.after
  let s1 := memWrite o.after o.high p
  .next (memWrite s1 o.low (memRead s1 p))

/-- `CAL h, l` (rule R143): the target is decoded first, the counter after every tryte of the instruction is pushed,
then the counter becomes the target (D21). -/
def execCal (h l : Operand) (s : State) : Result :=
  let o := dstThenVal h l s
  .next (setPc (pushAt o.high (pc o.after) o.after) o.low)

end Sys2Proof.Machine
end

