-- ==== Sys2Proof/Machine/Dispatch.lean ====
section
/-! DEFINITION. The dispatch (rule R127): one arm per row of spec/opcode_table.json, in the table's order. The state
is the one after the instruction fetch (rule R120). -/

namespace Sys2Proof.Machine

def exec (i : Instr) (s : State) : Host.Outcome State Fault Refusal :=
  match i with
  | .add h l => Sys2Proof.Machine.execAdd h l s
  | .slt h l => Sys2Proof.Machine.execSlt h l s
  | .cal h l => Sys2Proof.Machine.execCal h l s
  | .div h l => Sys2Proof.Machine.execDiv h l s
  | .seq h l => Sys2Proof.Machine.execSeq h l s
  | .unimpF h l => Sys2Proof.Machine.execUnimpF h l s
  | .sge h l => Sys2Proof.Machine.execSge h l s
  | .hwi h l => Sys2Proof.Machine.execHwi h l s
  | .ldi h k => Sys2Proof.Machine.execLdi h k s
  | .jmp h l => Sys2Proof.Machine.execJmp h l s
  | .adi h k => Sys2Proof.Machine.execAdi h k s
  | .ldx h l => Sys2Proof.Machine.execLdx h l s
  | .mov h l => Sys2Proof.Machine.execMov h l s
  | .unimp0 h l => Sys2Proof.Machine.execUnimp0 h l s
  | .and h l => Sys2Proof.Machine.execAnd h l s
  | .pop h l => Sys2Proof.Machine.execPop h l s
  | .psh h l => Sys2Proof.Machine.execPsh h l s
  | .unimpQ h l => Sys2Proof.Machine.execUnimpQ h l s
  | .orr h l => Sys2Proof.Machine.execOrr h l s
  | .sub h l => Sys2Proof.Machine.execSub h l s
  | .tri h l => Sys2Proof.Machine.execTri h l s
  | .sne h l => Sys2Proof.Machine.execSne h l s
  | .unimpV h l => Sys2Proof.Machine.execUnimpV h l s
  | .stx h l => Sys2Proof.Machine.execStx h l s
  | .mul h l => Sys2Proof.Machine.execMul h l s
  | .unimpY h l => Sys2Proof.Machine.execUnimpY h l s
  | .unimpZ h l => Sys2Proof.Machine.execUnimpZ h l s

end Sys2Proof.Machine
end

