-- ==== Sys2Proof/Machine/Cycle.lean ====
section
/-! DEFINITION. The fetch-decode-execute transition (rule R120): the instruction fetch, the decode, the check that the
opcode is assigned, the instruction's meaning. -/

namespace Sys2Proof.Machine

/-- A decoded instruction run in the state after its fetch: its meaning where the configuration offers it, else the
error of an unassigned opcode (rules R120, R129, R160). -/
def runDecoded (hasDiv : Bool) (i : Instr) (s : State) : Result :=
  if i.offered hasDiv then exec i s else raiseUnimplemented i.opcode s

/-- `Step()` under either setting of `HAS_DIV` (log entry 5). -/
def stepWith (hasDiv : Bool) (s : State) : Result := runDecoded hasDiv (decode (fetch s).1) (fetch s).2

end Sys2Proof.Machine
end

