-- ==== Sys2Proof/Machine/Loading.lean ====
section
/-! DEFINITION. Writing trytes into consecutive cells: what the loader does with a program (rule R195), and the
placing of one instruction where the next step fetches it. -/

namespace Sys2Proof.Machine

/-- Trytes written into consecutive cells from an address upward, with wrap; a write to the zero register's address is
dropped (rule R195). -/
def writeTrytes (s : State) (a : Tryte) : List Tryte → State
  | [] => s
  | v :: vs => writeTrytes (memWrite s a v) (offsetBy a 1) vs

/-- Whether four cells from an address hold neither the program counter nor the zero register, so that an instruction
of any length can be placed there. -/
def canHoldInstruction (a : Tryte) : Bool :=
  [0, 1, 2, 3].all (fun n => decide (offsetBy a n ≠ pcAddr) && decide (offsetBy a n ≠ zeroAddr))

/-- The base address of the spec's own programs, 27 (D35, log entry 10). -/
def programBase : Tryte := Tryte.norm 27

/-- An instruction tryte placed where the next step fetches, followed by zero trytes up to the longest instruction. It
is placed at the program counter where the four cells there can hold it; where one of them is the counter's own cell or
the zero register, the host's `Write(PC_ADDR, 27)` of rule R231 comes first. -/
def placeInstruction (s : State) (w : Tryte) : State :=
  let s0 := if canHoldInstruction (pc s) then s else setPc s programBase
  writeTrytes s0 (pc s0) [w, Tryte.zero, Tryte.zero, Tryte.zero]

end Sys2Proof.Machine
end

