-- ==== Sys2Proof/Machine/Step.lean ====
section
/-! DEFINITION. One step, and the placing of an instruction where the next step fetches it. -/

namespace Sys2Proof.Machine

/-- `Step()` (rules R120, R196), at the configured `HAS_DIV`. -/
def step (s : State) : Host.Outcome State Fault Refusal := stepWith Config.hasDiv s

/-- The state with a table word stored where the next step fetches its instruction, and zero trytes in the three cells
after it (log entry 10); a number that is no tryte changes nothing. -/
def State.withFetchWord (s : State) (_nbits w : Nat) : State :=
  match tryteOfTableWord w with
  | some t => placeInstruction s t
  | none => s

end Sys2Proof.Machine
end

