-- ==== Sys2Proof/Machine/HostTransactions.lean ====
section
/-! DEFINITION. The host interface (spec/48_host_interface.md): the transactions `Reset`, `Read`, `Write`, `Load`,
`Step`, `Dump` on a Machine. Each is atomic and a total function of the state and its inputs (rule R190). The Tryte-unit
operations of rule R198 are those of `Machine/Numeral.lean`, `Machine/TryteAlu.lean` and `Machine/Flags.lean`. -/

namespace Sys2Proof.Machine

/-- `LoaderError` (rules R195, R213): raised by `Load` before any cell is written. Safe: the spec's own error. -/
inductive LoaderError where
  /-- The cleaned text's length is not a multiple of 3 (rule R195). Safe. -/
  | badLength
  /-- Some character of the cleaned text is not in the alphabet (rule R195). Safe. -/
  | unknownSymbol
deriving DecidableEq, Repr

/-- The errors that end a transaction other than by normal completion (rule R210). -/
inductive CoreError where
  /-- A string index or base that is no tribble string (rules R194, R211). Safe: the spec's own error. -/
  | decode (e : DecodeError Char)
  /-- Raised by `Step` only (rule R212). Safe: the spec's own error. -/
  | unimplementedOpcode (sym : Tribble)
  /-- Raised by `Load` only (rule R213). Safe: the spec's own error. -/
  | loader (e : LoaderError)
deriving DecidableEq, Repr

/-- The numeric code of an error (rule R210, D22); code 0 is "no error". -/
def CoreError.code : CoreError → Nat
  | .decode _ => 1
  | .unimplementedOpcode _ => 2
  | .loader _ => 3

/-- The outcome of a transaction (rule R11): it completes with a result and the new state, or raises an error and
leaves a state; or the request lies outside the transaction's domain and is refused. -/
inductive Transaction (α : Type) where
  | completes (result : α) (after : State)
  | raises (e : CoreError) (after : State)
  | refused (r : Refusal)
deriving DecidableEq, Repr

/-- The two forms of an index (rule R194). -/
inductive Index where
  | raw (n : Int)
  | text (s : List Char)
deriving DecidableEq, Repr

/-- What an index denotes. -/
inductive Resolved where
  | address (a : Tryte)
  | malformed (e : DecodeError Char)
  | outside (n : Int)
deriving DecidableEq, Repr

/-- The address an index denotes (rule R194): a raw integer outside [-9841, 9841] denotes none, and is never wrapped
(D24). -/
def Index.resolve : Index → Resolved
  | .raw n => if h : -9841 ≤ n ∧ n ≤ 9841 then .address ⟨n, h.1, h.2⟩ else .outside n
  | .text s =>
    match fromTribbles s with
    | .ok a => .address a
    | .error e => .malformed e

/-- A transaction on the address an index denotes (rule R194). -/
def onAddress {α : Type} (i : Index) (s : State) (f : Tryte → Transaction α) : Transaction α :=
  match i.resolve with
  | .address a => f a
  | .malformed e => .raises (.decode e) s
  | .outside n => .refused (.indexOutsideDomain n)

/-- `Reset()` (rule R191). -/
def hostReset : Transaction Unit := .completes () State.reset

/-- `Read(index)` (rule R192). -/
def hostRead (s : State) (i : Index) : Transaction Tryte :=
  onAddress i s (fun a => .completes (memRead s a) s)

/-- `Write(index, v)` (rule R193); `v` is a tryte by its type. -/
def hostWrite (s : State) (i : Index) (v : Tryte) : Transaction Unit :=
  onAddress i s (fun a => .completes () (memWrite s a v))

/-- The loader's cleaning of a text (rule R195): white space removed, lower-case letters made upper case. -/
def cleanText (text : List Char) : List Char :=
  (text.filter (fun c => !whiteSpace.contains c)).map upperCase

/-- The trytes of a cleaned text whose every character is known, three symbols each, in order. -/
def tryteGroups : List Tribble → List Tryte
  | p2 :: p1 :: p0 :: rest => ofSyms p2 p1 p0 :: tryteGroups rest
  | _ => []

/-- The trytes a program text spells, or the loader's error (rule R195): the length is checked first, then the
characters. -/
def parseText (text : List Char) : Except LoaderError (List Tryte) :=
  if (cleanText text).length % 3 = 0 then
    match convertAll symOfChar 0 (cleanText text) with
    | .ok syms => .ok (tryteGroups syms)
    | .error _ => .error .unknownSymbol
  else .error .badLength

/-- `Load(base, text)` (rule R195): the base is resolved first, then the whole text is checked, then the trytes are
written and counted. -/
def hostLoad (s : State) (base : Index) (text : List Char) : Transaction Nat :=
  onAddress base s (fun a =>
    match parseText text with
    | .ok ts => .completes ts.length (writeTrytes s a ts)
    | .error e => .raises (.loader e) s)

/-- The outcome of a step as a transaction (rule R196): the new state in either case. -/
def stepOutcome : Result → Transaction Unit
  | .next t => .completes () t
  | .fault (.unimplementedOpcode sym t) => .raises (.unimplementedOpcode sym) t
  | .refused r => .refused r

/-- `Step()` (rule R196). -/
def hostStep (s : State) : Transaction Unit := stepOutcome (step s)

/-- `Dump` (rule R197): the tribble string of each cell asked for, the state unchanged. The layout of the grid is no
part of the model (D31). -/
def hostDump (s : State) (cells : List Tryte) : Transaction (List (List Tribble)) :=
  .completes (cells.map (fun a => tribbleString (memRead s a))) s

/-- The host's running convention (rule R199): stepping while the counter differs from an end address and a step bound
is not exhausted, handing back the first error. The bound and the end address are the host's, not the core's. -/
def runUntil (endAddr : Tryte) : Nat → State → Transaction Unit
  | 0, s => .completes () s
  | n + 1, s =>
    if pc s = endAddr then .completes () s
    else
      match hostStep s with
      | .completes _ t => runUntil endAddr n t
      | .raises e t => .raises e t
      | .refused r => .refused r

end Sys2Proof.Machine
end

