-- ==== Sys2Proof/Safety.lean ====
section
/-! DEFINITION. What counts as a sound state and a safe step, in the terms the statements use. -/

namespace Sys2Proof.Machine

/-- The invariant of the machine: the memory list has its canonical form, and the zero register's cell is not listed,
so that it holds 0 (rule R25: "`M[ZERO_ADDR]` is 0 in every reachable state"). -/
def State.Inv (s : State) : Prop :=
  Memory.wf s.mem = true ∧ cellAt s.mem (unbiased zeroAddr) = Tryte.zero

/-- The two outcomes rule R120 allows a step: it completes, or it raises `UnimplementedOpcode` with the opcode symbol
of the tryte it fetched. -/
def CompletesOrRaises (w : Tryte) (r : Result) : Prop :=
  (∃ t, r = .next t) ∨ (∃ t, r = .fault (.unimplementedOpcode (sym2 w) t))

/-- Two states agree on every cell but those listed, as any reader of the memory sees it (rule R41). -/
def SameCellsExcept (written : List Tryte) (s t : State) : Prop :=
  ∀ a, a ∉ written → memRead t a = memRead s a

/-- The machine moves its program counter to `p` and changes no other cell. -/
def OnlyMovesPc (s t : State) (p : Tryte) : Prop := pc t = p ∧ SameCellsExcept [pcAddr] s t

/-- What one store at `d` of the value `v` leaves, after `n` extension trytes were taken: the cell `d` reads `v` (or 0,
if `d` is the zero register's address); the program counter has advanced by `n`, unless it was the cell stored to; every
other cell is as before. -/
def StoresAt (s t : State) (d v : Tryte) (n : Nat) : Prop :=
  memRead t d = (if d = zeroAddr then Tryte.zero else v) ∧
    (d ≠ pcAddr → pc t = offsetBy (pc s) n) ∧ SameCellsExcept [pcAddr, d] s t

/-- The letters `a` to `z`, in order (rule R195). -/
def lowerCaseLetters : List Char :=
  ['a', 'b', 'c', 'd', 'e', 'f', 'g', 'h', 'i', 'j', 'k', 'l', 'm', 'n', 'o', 'p', 'q', 'r', 's', 't', 'u', 'v', 'w',
   'x', 'y', 'z']

/-- The letters `A` to `Z`, in order (rule R195). -/
def upperCaseLetters : List Char :=
  ['A', 'B', 'C', 'D', 'E', 'F', 'G', 'H', 'I', 'J', 'K', 'L', 'M', 'N', 'O', 'P', 'Q', 'R', 'S', 'T', 'U', 'V', 'W',
   'X', 'Y', 'Z']

/-- An opcode symbol that has an instruction (rules R67, R69): every symbol but the six unassigned ones, and the divide
symbol only where divide is offered. -/
def AssignedOpcode (hasDiv : Bool) (op : Tribble) : Prop :=
  op ∉ [(5 : Tribble), 13, 17, 22, 25, 26] ∧ (op = 3 → hasDiv = true)

end Sys2Proof.Machine
end

