-- ==== Sys2Proof/Certificates/Slice0/Obligations.lean ====
section
/-! DEFINITION. The statements for the provers, in the order of the spec's files. Each names the rule it formalises;
where a clause rests on a decision of the spec (`D<n>` of 92_eei_decisions.md) or on a choice of this model, its
docstring names the log entry. In every statement about `exec`, `s` is the state after the instruction fetch. -/

open Sys2Proof Sys2Proof.Machine

/-! ## The Tryte unit: numerals -/

/-- R81: `construct(n)` is the one tryte congruent to `n` modulo 19683; it is the identity on trytes and has period
19683. -/
def Obligations.ConstructIsTheCenteredRepresentative : Prop :=
  ∀ n : Int,
    (construct n).raw = (n + 9841) % 19683 - 9841 ∧
    (∀ t : Tryte, t = construct n ↔ (t.raw - n) % 19683 = 0) ∧
    (∀ t : Tryte, construct (value t) = t) ∧
    ∀ k : Int, construct (n + 19683 * k) = construct n

/-- R90: the three encodings are bijections; each conversion there and back is the identity, from both sides. -/
def Obligations.ThreeEncodingsRoundTrip : Prop :=
  (∀ n : Int, -9841 ≤ n → n ≤ 9841 →
    value (construct n) = n ∧
    fromTribbles (tribbleText (construct n)) = .ok (construct n) ∧
    fromTrits (tritText (construct n)) = .ok (construct n)) ∧
  (∀ (s : List Char) (t : Tryte), fromTribbles s = .ok t → tribbleText t = s) ∧
  (∀ (s : List Char) (t : Tryte), fromTrits s = .ok t → tritText t = s)

/-- R83: the signed digits of the three symbols are the balanced base-27 digits of the value, and no other symbols
are. -/
def Obligations.TribbleDigitsSpellTheValueUniquely : Prop :=
  ∀ (t : Tryte) (p2 p1 p0 : Tribble),
    tribbleString t = [p2, p1, p0] ↔ t.raw = 729 * dig p2 + 27 * dig p1 + dig p0

/-- R80, R86: the nine trits are the balanced-ternary digits of the value, and no other trits are. The correspondence
with the digits of the unbiased value is an inference the spec marks as its own. -/
def Obligations.TritsSpellTheValueUniquely : Prop :=
  ∀ (t : Tryte) (x8 x7 x6 x5 x4 x3 x2 x1 x0 : Trit),
    tritString t = [x8, x7, x6, x5, x4, x3, x2, x1, x0] ↔
      t.raw = 6561 * x8.toInt + 2187 * x7.toInt + 729 * x6.toInt + 243 * x5.toInt + 81 * x4.toInt +
        27 * x3.toInt + 9 * x2.toInt + 3 * x1.toInt + x0.toInt

/-- R85: the trit string of a tryte is the three-trit groups of its three symbols, one after the other (an inference
the spec marks as its own). -/
def Obligations.EachTribbleIsThreeTrits : Prop :=
  ∀ t : Tryte, tritString t = tribbleTrits (sym2 t) ++ tribbleTrits (sym1 t) ++ tribbleTrits (sym0 t)

/-- R84: `fromTribbles` on a text of any length: the length error first, else the leftmost unknown character, else the
value. The error carries that character and its position (R84, R211). The order of the checks is the spec's decision
(D26), counting positions from 0 the model's (log entry 12). -/
def Obligations.FromTribblesChecksLengthThenSymbols : Prop :=
  (∀ s : List Char, s.length ≠ 3 → fromTribbles s = .error .wrongLength) ∧
  (∀ (before after : List Char) (c : Char), (before ++ c :: after).length = 3 →
    (∀ x ∈ before, symOfChar x ≠ none) → symOfChar c = none →
    fromTribbles (before ++ c :: after) = .error (.unknownSymbol before.length c)) ∧
  (∀ (c2 c1 c0 : Char) (p2 p1 p0 : Tribble),
    symOfChar c2 = some p2 → symOfChar c1 = some p1 → symOfChar c0 = some p0 →
    ∃ t, fromTribbles [c2, c1, c0] = .ok t ∧
      t.raw = 729 * (p2.val : Int) + 27 * (p1.val : Int) + (p0.val : Int) - 9841)

/-- R87, R88: `fromTrits` and `fromRawTrits` refuse a wrong length first and then the leftmost bad element, which the
error carries with its position (R211). The order of the checks is the spec's decision (D26), counting positions from 0
the model's (log entry 12). -/
def Obligations.TritConversionsCheckLengthThenSymbols : Prop :=
  (∀ s : List Char, s.length ≠ 9 → fromTrits s = .error .wrongLength) ∧
  (∀ (before after : List Char) (c : Char), (before ++ c :: after).length = 9 →
    (∀ x ∈ before, x ∈ Config.tritAlphabet) → c ∉ Config.tritAlphabet →
    fromTrits (before ++ c :: after) = .error (.unknownSymbol before.length c)) ∧
  (∀ ds : List Int, ds.length ≠ 9 → fromRawTrits ds = .error .wrongLength) ∧
  (∀ (before after : List Int) (r : Int), (before ++ r :: after).length = 9 →
    (∀ x ∈ before, 0 ≤ x ∧ x ≤ 2) → ¬ (0 ≤ r ∧ r ≤ 2) →
    fromRawTrits (before ++ r :: after) = .error (.unknownSymbol before.length r))

/-- R88, R89: `fromRawTrits` and `rawTrits` are inverse to each other. That a raw trit is the trit plus one is a
decision of the spec (D3, log entry 11). -/
def Obligations.RawTritsInvertFromRawTrits : Prop :=
  (∀ t : Tryte, fromRawTrits (rawTrits t) = .ok t) ∧
  ∀ (ds : List Int) (t : Tryte), fromRawTrits ds = .ok t → rawTrits t = ds

/-! ## The Tryte unit: arithmetic, logic, comparison -/

/-- R100, R101, R102: the true result wrapped into the centered range, with the laws those rules state. -/
def Obligations.ArithmeticWrapsSilently : Prop :=
  (∀ a b : Tryte,
    (add a b).raw = (a.raw + b.raw + 9841) % 19683 - 9841 ∧
    (sub a b).raw = (a.raw - b.raw + 9841) % 19683 - 9841 ∧
    (mul a b).raw = (a.raw * b.raw + 9841) % 19683 - 9841 ∧
    ((add a b).raw = a.raw + b.raw ∨ (add a b).raw = a.raw + b.raw + 19683 ∨
      (add a b).raw = a.raw + b.raw - 19683) ∧
    add a b = add b a ∧ mul a b = mul b a) ∧
  (∀ a b c : Tryte, add (add a b) c = add a (add b c)) ∧
  ∀ a : Tryte,
    add a Tryte.zero = a ∧ sub a a = Tryte.zero ∧ sub a Tryte.zero = a ∧ (sub Tryte.zero a).raw = - a.raw ∧
    mul a Tryte.zero = Tryte.zero ∧ mul a (construct 1) = a ∧ (mul a (construct (-1))).raw = - a.raw

/-- R103: a zero divisor gives 0; otherwise the quotient is the floor of the true one and never wraps. Floor is the
spec's decision (D18, log entry 5). -/
def Obligations.DivisionIsFloorWithZeroGuard : Prop :=
  ∀ a b : Tryte,
    (b.raw = 0 → div a b = Tryte.zero) ∧
    (0 < b.raw → (div a b).raw * b.raw ≤ a.raw ∧ a.raw < ((div a b).raw + 1) * b.raw) ∧
    (b.raw < 0 → a.raw ≤ (div a b).raw * b.raw ∧ ((div a b).raw + 1) * b.raw < a.raw)

/-- R104: `and_` is the minimum and `or_` the maximum, trit by trit; both are commutative and idempotent; 9841, all of
whose trits are +1, is the identity of `and_`, and -9841 absorbs. -/
def Obligations.TritwiseAndIsMinAndOrIsMax : Prop :=
  ∀ a b : Tryte,
    (∀ i, i < 9 → (trit (and_ a b) i).toInt = min (trit a i).toInt (trit b i).toInt) ∧
    (∀ i, i < 9 → (trit (or_ a b) i).toInt = max (trit a i).toInt (trit b i).toInt) ∧
    and_ a b = and_ b a ∧ or_ a b = or_ b a ∧ and_ a a = a ∧ or_ a a = a ∧
    and_ a (construct 9841) = a ∧ and_ a (construct (-9841)) = construct (-9841)

/-- R106: the generic operation applies its symmetric table at each trit, and is commutative. -/
def Obligations.GenericTritwiseAppliesTheTable : Prop :=
  ∀ (a b : Tryte) (f : TruthTable),
    (∀ x y, f.apply x y = f.apply y x) ∧
    (∀ i, i < 9 → trit (genericTritwiseOp a b f) i = f.apply (trit a i) (trit b i)) ∧
    genericTritwiseOp a b f = genericTritwiseOp b a f

/-- R107, R109 (d): trytes that agree in their six low trits are the same table; the tables -350 and -212 are AND and
OR. The layout of the table tryte is the spec's decision (D13, log entry 7). -/
def Obligations.TableTryteLayout : Prop :=
  (∀ t t' : Tryte, (t.raw - t'.raw) % 729 = 0 ↔ tableOf t = tableOf t') ∧
  ∀ a b : Tryte,
    genericTritwiseOp a b (tableOf (construct (-350))) = and_ a b ∧
    genericTritwiseOp a b (tableOf (construct (-212))) = or_ a b

/-- R108: the signed order on raw values is the lexicographic order of the trit strings (an inference the spec marks as
its own), equality is equality of all trits, and the other four relations follow from these two. -/
def Obligations.OrderIsLexicographicOnTrits : Prop :=
  ∀ a b : Tryte,
    (lessThan a b = true ↔ a.raw < b.raw) ∧
    (lessThan a b = true ↔
      ∃ i, i < 9 ∧ (∀ j, i < j → j < 9 → trit a j = trit b j) ∧ (trit a i).toInt < (trit b i).toInt) ∧
    (equal a b = true ↔ ∀ i, i < 9 → trit a i = trit b i) ∧
    greaterThan a b = lessThan b a ∧ lessOrEqual a b = (lessThan a b || equal a b) ∧
    greaterOrEqual a b = !lessThan a b ∧ notEqual a b = !equal a b

/-- R110: what a program computes as `sub(0, a)` or `mul(a, -1)` is `-a`, and it negates every trit (an inference the
spec marks as its own). -/
def Obligations.NegationNegatesEveryTrit : Prop :=
  ∀ (a : Tryte) (i : Nat), i < 9 →
    (trit (sub Tryte.zero a) i).toInt = - (trit a i).toInt ∧ mul a (construct (-1)) = sub Tryte.zero a

/-! ## State and memory -/

/-- R30: after reset every one of the 19683 cells holds the zero tryte, whatever way it is read. -/
def Obligations.ResetZeroesEveryCell : Prop :=
  ∀ a : Tryte, cellAt State.reset.mem (unbiased a) = Tryte.zero ∧ memRead State.reset a = Tryte.zero

/-- The state after reset meets the invariant: the model's canonical form of the memory list (log entry 9), and the
zero register's cell holding 0 (D19). -/
def Obligations.ResetMeetsTheInvariant : Prop := State.reset.Inv

/-- R21: the cell for address `a` is slot `a + 9841`, and the map from addresses to the slots 0 to 19682 is a
bijection. -/
def Obligations.SlotsAreABijection : Prop :=
  (∀ a : Tryte, (unbiased a : Int) = a.raw + 9841) ∧
  ∀ k : Nat, k < 19683 ↔ ∃ a : Tryte, unbiased a = k ∧ ∀ b, unbiased b = k → b = a

/-- R25 with the canonical form of the model's memory list (log entry 9): from every state that meets the invariant,
whatever a step answers leaves a state that meets it, under either setting of `HAS_DIV`. That a write to the zero
register is dropped is the spec's decision (D19, log entry 9). -/
def Obligations.EveryStepKeepsTheInvariant : Prop :=
  ∀ (hasDiv : Bool) (s : State), s.Inv →
    (∀ t, step s = .next t → t.Inv) ∧
    (∀ t, stepWith hasDiv s = .next t → t.Inv) ∧
    ∀ sym t, stepWith hasDiv s = .fault (.unimplementedOpcode sym t) → t.Inv

/-- R193, R195, R199: a write, a load and a run by the host keep the same invariant, the zero register's cell at 0
(R25, D19) and the model's canonical form of the memory list (log entry 9). The run is one host's convention (log entry
16). -/
def Obligations.HostTransactionsKeepTheInvariant : Prop :=
  ∀ s : State, s.Inv →
    (∀ i v t, hostWrite s i v = .completes () t → t.Inv) ∧
    (∀ i text n t, hostLoad s i text = .completes n t → t.Inv) ∧
    (∀ e n t, runUntil e n s = .completes () t → t.Inv)

/-- R52: a store is seen by the very next fetch; and a fetch whose counter points at its own cell reads the counter as
it stood (R121 (b)). Derived in the spec from R41, R49 and R128. -/
def Obligations.FetchSeesTheLatestStore : Prop :=
  (∀ (s : State) (w : Tryte), pc s ≠ pcAddr → pc s ≠ zeroAddr →
    (fetch (memWrite s (pc s) w)).1 = w ∧ OnlyMovesPc (memWrite s (pc s) w) (fetch (memWrite s (pc s) w)).2
      (offsetBy (pc s) 1)) ∧
  ∀ s : State, pc s = pcAddr → (fetch s).1 = pcAddr ∧ pc (fetch s).2 = offsetBy pcAddr 1

/-- R26: where the control registers are, and that they are what their symbols name. The symbols `P`, `S` and `Z`, and so
the addresses 3, 6 and 13, are the spec's decision (D4, log entry 2). -/
def Obligations.ControlRegisterAddresses : Prop :=
  (pcAddr.raw = 3 ∧ spAddr.raw = 6 ∧ zeroAddr.raw = 13) ∧
  (pcAddr ≠ spAddr ∧ pcAddr ≠ zeroAddr ∧ spAddr ≠ zeroAddr) ∧
  (symOfChar 'P' = some Config.pcSym ∧ symOfChar 'S' = some Config.spSym ∧ symOfChar 'Z' = some Config.zeroSym) ∧
  ∀ s : State, regRead s Config.pcSym = pc s ∧ regRead s Config.spSym = memRead s spAddr ∧
    regRead s Config.zeroSym = Tryte.zero

/-! ## Encoding -/

/-- R60, R61, R67, R68: the decoder reads back every well-formed instruction from the tryte the encoder writes for it,
every operand and every digit at every value. The opcode symbols and the markers are the spec's decisions (D5, D6, log
entries 2 and 3). -/
def Obligations.DecodeOfEncodeIsTheInstruction : Prop :=
  ∀ i : Instr, i.wellFormed = true → decode (encode i) = i

/-- R60, R69: every one of the 19683 trytes decodes to a well-formed instruction, and the encoder writes that tryte for
it: no two trytes mean the same instruction. -/
def Obligations.EncodeOfDecodeIsTheTryte : Prop :=
  ∀ w : Tryte, (decode w).wellFormed = true ∧ encode (decode w) = w

/-- R60: an instruction tryte is `729 * dig(op) + 27 * dig(h) + dig(l)`; every one of the trytes splits so; and the
instruction trytes of opcode position `p` are exactly those from `729 * p - 9841` to `729 * p - 9841 + 728`. -/
def Obligations.OpcodeOwnsItsRangeOfTrytes : Prop :=
  (∀ i : Instr, (encode i).raw = 729 * dig i.opcode + 27 * dig i.high + dig i.low) ∧
  (∀ w : Tryte, w.raw = 729 * dig (decode w).opcode + 27 * dig (decode w).high + dig (decode w).low) ∧
  ∀ (w : Tryte) (p : Tribble),
    (decode w).opcode = p ↔ 729 * (p.val : Int) - 9841 ≤ w.raw ∧ w.raw ≤ 729 * (p.val : Int) - 9841 + 728

/-- R62, R68: the exact length of every instruction, from its operands' extension trytes in their roles. That the high
operand of a binary value operation takes one at most is the spec's decision (D10, log entry 6). -/
def Obligations.LengthsFollowTheRoles : Prop :=
  (∀ r : Tribble, (Operand.direct r).dstExt = 0 ∧ (Operand.direct r).valExt = 0) ∧
  (Operand.discard.dstExt = 0 ∧ Operand.discard.valExt = 1) ∧
  (Operand.indirect.dstExt = 1 ∧ Operand.indirect.valExt = 1) ∧
  (∀ h l : Operand,
    (Instr.psh h l).length = 1 + h.dstExt + l.valExt ∧ (Instr.cal h l).length = 1 + h.dstExt + l.valExt ∧
    (Instr.pop h l).length = 1 + h.dstExt + l.dstExt ∧
    (∀ i ∈ [Instr.mov h l, .add h l, .sub h l, .mul h l, .and h l, .orr h l, .ldx h l, .stx h l, .div h l,
        .slt h l, .sge h l, .seq h l, .sne h l], i.length = 1 + h.valExt + l.valExt) ∧
    (Instr.tri h l).length = 2 + h.valExt + l.valExt) ∧
  (∀ (h : Operand) (k : Tribble), (Instr.ldi h k).length = 1 + h.dstExt ∧ (Instr.adi h k).length = 1 + h.dstExt) ∧
  (∀ h l : Tribble, ∀ i ∈ [Instr.jmp h l, .hwi h l, .unimpF h l, .unimp0 h l, .unimpQ h l, .unimpV h l, .unimpY h l,
    .unimpZ h l], i.length = 1) ∧
  ((Instr.tri .indirect .discard).length = 4 ∧ ∀ i : Instr, i.length ≤ 4)

/-- R67 to R71: some words of the spec's own examples, each written out as text, decode to the instruction they stand
for (the characters and opcodes are the spec's decisions D1, D5, D6, log entries 1 to 3). -/
def Obligations.SampleWordsDecode : Prop :=
  decodeText ['M', 'E', 'A'] = .ok (.mov (.direct 4) (.direct 0)) ∧
  decodeText ['A', 'P', '0'] = .ok (.add (.direct 16) .discard) ∧
  decodeText ['T', 'I', '0'] = .ok (.tri .indirect .discard) ∧
  decodeText ['O', 'S', 'P'] = .ok (.pop (.direct 19) (.direct 16)) ∧
  decodeText ['J', 'I', '0'] = .ok (.jmp 8 13) ∧
  decodeText ['E', 'I', 'Z'] = .ok (.seq .indirect (.direct 26)) ∧
  decodeText ['I', 'A', 'I'] = .ok (.ldi (.direct 0) 8) ∧
  decodeText ['H', '0', 'I'] = .ok (.hwi 13 8) ∧
  decodeText ['F', '0', 'I'] = .ok (.unimpF 13 8)

/-! ## Operand decoding -/

/-- R124: a destination operand in all three classes. -/
def Obligations.DestinationOperandForms : Prop :=
  ∀ (s : State) (r : Tribble),
    ((decodeDst (.direct r) s).1.raw = dig r ∧ (decodeDst (.direct r) s).2 = s) ∧
    decodeDst .discard s = (zeroAddr, s) ∧
    ((decodeDst .indirect s).1 = memRead s (pc s) ∧
      OnlyMovesPc s (decodeDst .indirect s).2 (offsetBy (pc s) 1))

/-- R125: a value operand in all three classes, in terms of the state before it. An inline address that is the
counter's own reads the counter after the fetch. The moment of the read is the spec's decision (D11, log entry 6). -/
def Obligations.ValueOperandForms : Prop :=
  ∀ (s : State) (r : Tribble),
    decodeVal (.direct r) s = (regRead s r, s) ∧
    ((decodeVal .discard s).1 = memRead s (pc s) ∧ OnlyMovesPc s (decodeVal .discard s).2 (offsetBy (pc s) 1)) ∧
    ((decodeVal .indirect s).1 =
        (if memRead s (pc s) = pcAddr then offsetBy (pc s) 1 else memRead s (memRead s (pc s))) ∧
      OnlyMovesPc s (decodeVal .indirect s).2 (offsetBy (pc s) 1))

/-- R126, R150: the operands of a binary value operation are the destination, the value of the high operand and then
the value of the low one; the high operand takes one extension tryte at most, and decoding moves only the counter, by
the number of extension trytes. That one address serves both roles is the spec's decision (D10, log entry 6). -/
def Obligations.BinaryOperandsResolveHighOnceThenLow : Prop :=
  ∀ (s : State) (h l : Operand),
    (binaryOperands h l s).dst = (decodeDst h s).1 ∧
    (binaryOperands h l s).first = (decodeVal h s).1 ∧
    (binaryOperands h l s).second = (decodeVal l (decodeVal h s).2).1 ∧
    OnlyMovesPc s (binaryOperands h l s).after (offsetBy (pc s) (h.valExt + l.valExt : Nat)) ∧
    (h = .indirect → (binaryOperands h l s).first = memRead (fetch s).2 (binaryOperands h l s).dst)

/-! ## The step -/

/-- R120: a step at a well-formed instruction that the configuration offers is its meaning, run in the state whose
counter the instruction fetch has advanced by one; a divide that is not offered raises. -/
def Obligations.StepRunsTheDecodedInstruction : Prop :=
  ∀ (hasDiv : Bool) (s : State) (i : Instr), i.wellFormed = true → memRead s (pc s) = encode i →
    (i.offered hasDiv = true → stepWith hasDiv s = exec i (setPc s (offsetBy (pc s) 1))) ∧
    (i.offered hasDiv = false →
      stepWith hasDiv s = .fault (.unimplementedOpcode i.opcode (setPc s (offsetBy (pc s) 1)))) ∧
    step s = stepWith Config.hasDiv s

/-- R131: from every state a step can be taken, and it either completes or raises `UnimplementedOpcode` with the symbol
it fetched; no step refuses. -/
def Obligations.EveryStepCompletesOrRaises : Prop :=
  ∀ s : State, CompletesOrRaises (memRead s (pc s)) (step s)

/-- R120, R129: a step raises exactly at an unassigned opcode symbol, and completes at every other; the error carries
that symbol, and in the state it leaves only the program counter has changed, by one. Which symbols are unassigned is the spec's opcode map (D6, D7, log
entry 3). -/
def Obligations.UnassignedOpcodeRaisesAndAdvancesOnce : Prop :=
  ∀ (hasDiv : Bool) (s : State),
    (¬ AssignedOpcode hasDiv (sym2 (memRead s (pc s))) →
      ∃ t, stepWith hasDiv s = .fault (.unimplementedOpcode (sym2 (memRead s (pc s))) t) ∧
        OnlyMovesPc s t (offsetBy (pc s) 1)) ∧
    (AssignedOpcode hasDiv (sym2 (memRead s (pc s))) → ∃ t, stepWith hasDiv s = .next t)

/-- R183: the six unassigned opcode symbols each stop with their own symbol, whatever the operand symbols, and change
nothing. -/
def Obligations.UnassignedMeaningsStop : Prop :=
  ∀ (h l : Tribble) (s : State),
    exec (.unimpF h l) s = .fault (.unimplementedOpcode 5 s) ∧
    exec (.unimp0 h l) s = .fault (.unimplementedOpcode 13 s) ∧
    exec (.unimpQ h l) s = .fault (.unimplementedOpcode 17 s) ∧
    exec (.unimpV h l) s = .fault (.unimplementedOpcode 22 s) ∧
    exec (.unimpY h l) s = .fault (.unimplementedOpcode 25 s) ∧
    exec (.unimpZ h l) s = .fault (.unimplementedOpcode 26 s)

/-- R218, R220: after the error the machine is stepped on from the state it left, which is the state before but for the
counter; where the tryte after the unassigned one is an instruction, the next step is that instruction. -/
def Obligations.SteppingOnAfterTheErrorSkipsTheTryte : Prop :=
  ∀ (s t : State) (sym : Tribble) (i : Instr), hostStep s = .raises (.unimplementedOpcode sym) t →
    i.wellFormed = true → i.offered Config.hasDiv = true → memRead s (offsetBy (pc s) 1) = encode i →
    offsetBy (pc s) 1 ≠ pcAddr →
    OnlyMovesPc s t (offsetBy (pc s) 1) ∧ step t = exec i (setPc t (offsetBy (pc s) 2))

/-! ## Stack operations -/

/-- R141: `PSH` in every operand form: the decoded value at the stack address `p`, then the stack register moved by
`STACK_STEP`; the register's own cell wins where `p` is that cell. The high operand is decoded before the low one (D12,
log entry 6). The stack direction is the spec's decision (D8, log entry 4). -/
def Obligations.PshStoresThenAdjusts : Prop :=
  ∀ (h l : Operand) (s : State), ∃ t, exec (.psh h l) s = .next t ∧
    let sa := (decodeDst h s).1
    let v := (decodeVal l (decodeDst h s).2).1
    let p := memRead (decodeVal l (decodeDst h s).2).2 sa
    (sa ≠ zeroAddr → memRead t sa = offsetBy p Config.stackStep) ∧
    ((p ≠ sa ∨ sa = zeroAddr) → memRead t p = if p = zeroAddr then Tryte.zero else v) ∧
    (p ≠ pcAddr → sa ≠ pcAddr → pc t = offsetBy (pc s) (h.dstExt + l.valExt : Nat)) ∧
    SameCellsExcept [pcAddr, p, sa] s t

/-- R142: `POP` in every operand form: the stack register is moved back, the cell there is read, and the value goes to
the destination, which is written last (D8, D20, log entry 4). The high operand is decoded before the low one (D12, log
entry 6). -/
def Obligations.PopAdjustsThenLoads : Prop :=
  ∀ (h l : Operand) (s : State), ∃ t, exec (.pop h l) s = .next t ∧
    let sa := (decodeDst h s).1
    let d := (decodeDst l (decodeDst h s).2).1
    let after := (decodeDst l (decodeDst h s).2).2
    let p := offsetBy (memRead after sa) (-Config.stackStep)
    let v := if p = sa ∧ sa ≠ zeroAddr then p else memRead after p
    memRead t d = (if d = zeroAddr then Tryte.zero else v) ∧
    (sa ≠ d → sa ≠ zeroAddr → memRead t sa = p) ∧
    (sa ≠ pcAddr → d ≠ pcAddr → pc t = offsetBy (pc s) (h.dstExt + l.dstExt : Nat)) ∧
    SameCellsExcept [pcAddr, sa, d] s t

/-- R143: `CAL` in every operand form: the address after the whole instruction is pushed, and the counter becomes the
target, whatever the push wrote (D8, D21, log entry 4). The high operand is decoded before the low one (D12, log entry
6). -/
def Obligations.CalPushesTheReturnAddress : Prop :=
  ∀ (h l : Operand) (s : State), ∃ t, exec (.cal h l) s = .next t ∧
    let sa := (decodeDst h s).1
    let p := memRead (decodeVal l (decodeDst h s).2).2 sa
    pc t = (decodeVal l (decodeDst h s).2).1 ∧
    (sa ≠ zeroAddr → sa ≠ pcAddr → memRead t sa = offsetBy p Config.stackStep) ∧
    (p ≠ pcAddr → (p ≠ sa ∨ sa = zeroAddr) →
      memRead t p = if p = zeroAddr then Tryte.zero else offsetBy (pc s) (h.dstExt + l.valExt : Nat)) ∧
    SameCellsExcept [pcAddr, p, sa] s t

/-- R142: a pop with the same stack register undoes a push: the register has its old value, and the destination holds
the value pushed. An ordinary instruction fetch stands between the two. -/
def Obligations.PopUndoesPush : Prop :=
  ∀ (r y : Tribble) (l : Operand) (s t u : State),
    addrOf r ≠ pcAddr → addrOf r ≠ zeroAddr → r ≠ y → addrOf y ≠ zeroAddr →
    regRead s r ≠ addrOf r → regRead s r ≠ pcAddr → regRead s r ≠ zeroAddr →
    exec (.psh (.direct r) l) s = .next t → exec (.pop (.direct r) (.direct y)) (fetch t).2 = .next u →
    regRead u r = regRead s r ∧ regRead u y = (decodeVal l s).1

/-- R144: a pop into the program counter with the same stack register returns behind the call: the counter is the
address after the whole call instruction, and the stack register has its old value. The callee's tryte is fetched in
between. -/
def Obligations.ReturnUndoesCall : Prop :=
  ∀ (r : Tribble) (l : Operand) (s t u : State),
    addrOf r ≠ pcAddr → addrOf r ≠ zeroAddr →
    regRead s r ≠ addrOf r → regRead s r ≠ pcAddr → regRead s r ≠ zeroAddr →
    exec (.cal (.direct r) l) s = .next t →
    exec (.pop (.direct r) (.direct Config.pcSym)) (fetch t).2 = .next u →
    pc u = offsetBy (pc s) l.valExt ∧ regRead u r = regRead s r

/-! ## Binary value operations

In all of them one extension tryte for an INDIRECT high operand is the spec's decision (D10, log entry 6). -/

/-- R151: `MOV` in every operand form stores the low operand's value at the destination (operands: D10, D14, log entry
6). -/
def Obligations.MovStoresTheLowValue : Prop :=
  ∀ (h l : Operand) (s : State), ∃ t, exec (.mov h l) s = .next t ∧
    StoresAt s t (binaryOperands h l s).dst (binaryOperands h l s).second (Instr.mov h l).extCount

/-- R152, R153, R154: `ADD`, `SUB` and `MUL` in every operand form store the true result, wrapped (operands: D10,
log entry 6). -/
def Obligations.AddSubMulStoreTheWrappedResult : Prop :=
  ∀ (h l : Operand) (s : State),
    let o := binaryOperands h l s
    (∃ t, exec (.add h l) s = .next t ∧
      StoresAt s t o.dst (construct (o.first.raw + o.second.raw)) (Instr.add h l).extCount) ∧
    (∃ t, exec (.sub h l) s = .next t ∧
      StoresAt s t o.dst (construct (o.first.raw - o.second.raw)) (Instr.sub h l).extCount) ∧
    ∃ t, exec (.mul h l) s = .next t ∧
      StoresAt s t o.dst (construct (o.first.raw * o.second.raw)) (Instr.mul h l).extCount

/-- R155, R156: `AND` and `ORR` in every operand form store the value whose every trit is the smaller, the larger, of
the two inputs' trits (operands: D10, log entry 6). -/
def Obligations.AndOrrStoreTheTritwiseResult : Prop :=
  ∀ (h l : Operand) (s : State),
    let o := binaryOperands h l s
    (∃ t v, exec (.and h l) s = .next t ∧ StoresAt s t o.dst v (Instr.and h l).extCount ∧
      ∀ i, i < 9 → (trit v i).toInt = min (trit o.first i).toInt (trit o.second i).toInt) ∧
    ∃ t v, exec (.orr h l) s = .next t ∧ StoresAt s t o.dst v (Instr.orr h l).extCount ∧
      ∀ i, i < 9 → (trit v i).toInt = max (trit o.first i).toInt (trit o.second i).toInt

/-- R157: `TRI` in every operand form combines the inputs by the table in the tryte after the operands' extension
trytes, taken from the instruction stream. The table's layout is the spec's decision (D13, log entry 7). -/
def Obligations.TriCombinesByTheFetchedTable : Prop :=
  ∀ (h l : Operand) (s : State),
    let o := binaryOperands h l s
    ∃ t v, exec (.tri h l) s = .next t ∧ StoresAt s t o.dst v (h.valExt + l.valExt + 1) ∧
      ∀ i, i < 9 →
        trit v i = (tableOf (memRead o.after (pc o.after))).apply (trit o.first i) (trit o.second i)

/-- R158: `LDX` in every operand form stores what the cell at its second input holds; an address that is the counter's
own gives the counter after every fetch of the instruction. Which input is the pointer is the spec's decision (D15, log
entry 6). -/
def Obligations.LdxLoadsThroughTheSecondInput : Prop :=
  ∀ (h l : Operand) (s : State),
    let o := binaryOperands h l s
    ∃ t, exec (.ldx h l) s = .next t ∧
      StoresAt s t o.dst
        (if o.second = pcAddr then offsetBy (pc s) (h.valExt + l.valExt : Nat) else memRead s o.second)
        (Instr.ldx h l).extCount

/-- R159: `STX` in every operand form stores its second input at the address that is its first; the destination it
decoded is written only if it is that address. Which input is the pointer is the spec's decision (D15, log entry 6). -/
def Obligations.StxStoresThroughTheFirstInput : Prop :=
  ∀ (h l : Operand) (s : State), ∃ t, exec (.stx h l) s = .next t ∧
    StoresAt s t (binaryOperands h l s).first (binaryOperands h l s).second (Instr.stx h l).extCount

/-- R160: `DIV` in every operand form stores the guarded floor quotient (D18, log entry 5); a step runs it exactly where
divide is offered. -/
def Obligations.DivStoresTheGuardedQuotient : Prop :=
  ∀ (h l : Operand) (s : State),
    let o := binaryOperands h l s
    (∃ t, exec (.div h l) s = .next t ∧
      StoresAt s t o.dst
        (if o.second.raw = 0 then Tryte.zero else construct (Int.fdiv o.first.raw o.second.raw))
        (Instr.div h l).extCount) ∧
    (h.wellFormed = true → l.wellFormed = true → memRead s (pc s) = encode (.div h l) →
      stepWith true s = exec (.div h l) (setPc s (offsetBy (pc s) 1)) ∧
      stepWith false s = .fault (.unimplementedOpcode 3 (setPc s (offsetBy (pc s) 1))))

/-! ## Control transfer -/

/-- R170: `JMP` adds the two-digit offset to the counter the fetch has advanced, and changes nothing else, whatever the
symbols. That the base is the counter after the instruction fetch is the spec's decision (D29, log entry 6). -/
def Obligations.JmpAddsTheTwoDigitOffset : Prop :=
  ∀ (h l : Tribble) (s : State), ∃ t, exec (.jmp h l) s = .next t ∧
    OnlyMovesPc s t (construct ((pc s).raw + (27 * dig h + dig l)))

/-- R172 to R175: each skip-predicate in every operand form advances the counter past its extension trytes, and by one
tryte more exactly when its comparison holds; it changes nothing else. The names and the operand order are the spec's
decision (D28, log entry 6). -/
def Obligations.SkipPredicatesSkipOneTryte : Prop :=
  ∀ (h l : Operand) (s : State),
    let a := (decodeVal h s).1.raw
    let b := (decodeVal l (decodeVal h s).2).1.raw
    let n : Int := (h.valExt + l.valExt : Nat)
    (∃ t, exec (.slt h l) s = .next t ∧ OnlyMovesPc s t (offsetBy (pc s) (if a < b then n + 1 else n))) ∧
    (∃ t, exec (.sge h l) s = .next t ∧ OnlyMovesPc s t (offsetBy (pc s) (if b ≤ a then n + 1 else n))) ∧
    (∃ t, exec (.seq h l) s = .next t ∧ OnlyMovesPc s t (offsetBy (pc s) (if a = b then n + 1 else n))) ∧
    ∃ t, exec (.sne h l) s = .next t ∧ OnlyMovesPc s t (offsetBy (pc s) (if a = b then n else n + 1))

/-- R72, R170: the idiom `JMP -1` is a fixed point: in a state that meets the invariant the step answers the very same
state. -/
def Obligations.SelfJumpIsAFixedPoint : Prop :=
  ∀ s : State, s.Inv → memRead s (pc s) = encode (.jmp 13 12) → step s = .next s

/-! ## Small-immediate operations and the hook -/

/-- R180: `LDI` in every operand form stores the low symbol's digit and fetches nothing for it. -/
def Obligations.LdiStoresTheDigit : Prop :=
  ∀ (h : Operand) (k : Tribble) (s : State), ∃ t, exec (.ldi h k) s = .next t ∧
    StoresAt s t (decodeDst h s).1 (construct (dig k)) (Instr.ldi h k).extCount

/-- R181: `ADI` in every operand form adds the low symbol's digit to one cell in place; the counter's own cell is read
after the fetches. That the high symbol is a destination reference only is the spec's decision (D16, log entry 6). -/
def Obligations.AdiAddsTheDigitInPlace : Prop :=
  ∀ (h : Operand) (k : Tribble) (s : State), ∃ t, exec (.adi h k) s = .next t ∧
    StoresAt s t (decodeDst h s).1
      (construct ((if (decodeDst h s).1 = pcAddr then offsetBy (pc s) h.dstExt
        else memRead s (decodeDst h s).1).raw + dig k))
      (Instr.adi h k).extCount

/-- R182: `HWI` does nothing, whatever its symbols: its meaning leaves the state as it is, and a step over it moves the
counter by one tryte and changes nothing else. That it takes no extension tryte is the spec's decision (D17, log entry
6). -/
def Obligations.HwiOnlyAdvancesTheCounter : Prop :=
  ∀ (h l : Tribble) (s : State),
    exec (.hwi h l) s = .next s ∧
    (memRead s (pc s) = encode (.hwi h l) → ∃ t, step s = .next t ∧ OnlyMovesPc s t (offsetBy (pc s) 1))

/-! ## The host interface -/

/-- R192, R193, R194: a written tryte is read back under either form of the index, except at the zero register, and no
other cell changes; a raw index outside [-9841, 9841] is refused and a malformed text index raises, with no effect. The
refusal is the spec's decision (D24, log entry 13). -/
def Obligations.HostWriteThenRead : Prop :=
  (∀ (s : State) (i j : Index) (a b v : Tryte), i.resolve = .address a → j.resolve = .address b →
    ∃ t, hostWrite s i v = .completes () t ∧
      hostRead t j =
        .completes (if b = a then (if a = zeroAddr then Tryte.zero else v) else memRead s b) t) ∧
  (∀ n : Int, (-9841 ≤ n ∧ n ≤ 9841 → ∃ a, (Index.raw n).resolve = .address a ∧ a.raw = n) ∧
    (¬ (-9841 ≤ n ∧ n ≤ 9841) → ∀ s v text,
      hostRead s (.raw n) = .refused (.indexOutsideDomain n) ∧
      hostWrite s (.raw n) v = .refused (.indexOutsideDomain n) ∧
      hostLoad s (.raw n) text = .refused (.indexOutsideDomain n))) ∧
  (∀ a : Tryte, (Index.text (tribbleText a)).resolve = .address a) ∧
  ∀ (s : State) (chars : List Char) (e : DecodeError Char), fromTribbles chars = .error e → ∀ v text,
    hostRead s (.text chars) = .raises (.decode e) s ∧
    hostWrite s (.text chars) v = .raises (.decode e) s ∧
    hostLoad s (.text chars) text = .raises (.decode e) s

/-- R195: a completed load of at most 19683 trytes has written them to consecutive cells from the base upward, with
wrap; a write to the zero register is dropped but counted; every other cell is as before. The wrap and the cleaning of
the text are the spec's decision (D25, log entry 13). -/
def Obligations.LoadWritesConsecutiveCells : Prop :=
  ∀ (s t : State) (base : Index) (a : Tryte) (text : List Char) (ts : List Tryte) (n : Nat),
    base.resolve = .address a → parseText text = .ok ts → ts.length ≤ 19683 →
    hostLoad s base text = .completes n t →
    n = ts.length ∧
    (∀ (k : Nat) (v : Tryte), ts[k]? = some v →
      memRead t (offsetBy a k) = if offsetBy a k = zeroAddr then Tryte.zero else v) ∧
    ∀ b, (∀ k, k < ts.length → b ≠ offsetBy a k) → memRead t b = memRead s b

/-- R195: what the loader makes of a text before it checks it: the six white-space characters (tab, line feed, vertical
tab, form feed, carriage return, space) are removed, each letter `a` to `z` becomes its upper-case letter, every other
character is kept, and the order stays (D25, log entry 13). -/
def Obligations.CleaningDropsWhiteSpaceAndFoldsCase : Prop :=
  cleanText [] = [] ∧
  ∀ (c : Char) (rest : List Char),
    (c.toNat ∈ [9, 10, 11, 12, 13, 32] → cleanText (c :: rest) = cleanText rest) ∧
    (∀ u : Char, (c, u) ∈ List.zip lowerCaseLetters upperCaseLetters → cleanText (c :: rest) = u :: cleanText rest) ∧
    (c.toNat ∉ [9, 10, 11, 12, 13, 32] → c ∉ lowerCaseLetters → cleanText (c :: rest) = c :: cleanText rest)

/-- R195: a text is accepted exactly when its cleaned form has a multiple of three characters, all in the alphabet; the
trytes then spell the cleaned text, and each of the two errors is answered where it is due, the length checked first
(D25, log entry 13). -/
def Obligations.LoaderAcceptsExactlyTribbleText : Prop :=
  ∀ text : List Char,
    ((∃ ts, parseText text = .ok ts) ↔
      (cleanText text).length % 3 = 0 ∧ ∀ c ∈ cleanText text, c ∈ Config.alphabet) ∧
    (∀ ts, parseText text = .ok ts → (ts.map tribbleText).flatten = cleanText text) ∧
    ((cleanText text).length % 3 ≠ 0 → parseText text = .error .badLength) ∧
    ((cleanText text).length % 3 = 0 → (∃ c ∈ cleanText text, c ∉ Config.alphabet) →
      parseText text = .error .unknownSymbol)

/-- R213: a load that raises has changed nothing, and its error is `DecodeError` (code 1) or `LoaderError` (code 3).
That the whole text is checked before any cell is written, and the codes, are the spec's decisions (D25, D22, log entry
13). -/
def Obligations.FailedLoadLeavesMemoryUnchanged : Prop :=
  ∀ (s t : State) (base : Index) (text : List Char) (e : CoreError),
    hostLoad s base text = .raises e t → t = s ∧ (e.code = 1 ∨ e.code = 3)

/-- R196: the transaction `Step` reports each outcome of a step with the state it leaves, and refuses nothing. -/
def Obligations.HostStepReportsTheNewState : Prop :=
  ∀ s : State,
    (∃ t, step s = .next t ∧ hostStep s = .completes () t) ∨
    ∃ sym t, step s = .fault (.unimplementedOpcode sym t) ∧ hostStep s = .raises (.unimplementedOpcode sym) t ∧
      OnlyMovesPc s t (offsetBy (pc s) 1)
end

