-- ==== Sys2Proof/Laws/Numeral.lean ====
section
/-! SUPPORT. Small lemmas on the word and its conversions. -/

namespace Sys2Proof.Machine

@[simp] theorem raw_zero : Tryte.zero.raw = 0 := rfl

@[simp] theorem raw_norm (n : Int) : (Tryte.norm n).raw = (n + 9841) % 19683 - 9841 := rfl

/-- `norm` is the identity on integers in the centered range. -/
theorem raw_norm_of_range {n : Int} (hl : -9841 ≤ n) (hu : n ≤ 9841) : (Tryte.norm n).raw = n := by
  rw [raw_norm]; omega

@[simp] theorem norm_raw (t : Tryte) : Tryte.norm t.raw = t :=
  Tryte.ext (raw_norm_of_range t.lower t.upper)

theorem unbiased_cast (t : Tryte) : (unbiased t : Int) = t.raw + 9841 := by
  have := t.lower; unfold unbiased; omega

theorem unbiased_injective {a b : Tryte} (h : unbiased a = unbiased b) : a = b := by
  have ha := unbiased_cast a
  have hb := unbiased_cast b
  exact Tryte.ext (by omega)

@[simp] theorem unbiased_inj {a b : Tryte} : unbiased a = unbiased b ↔ a = b :=
  ⟨unbiased_injective, fun h => h ▸ rfl⟩

@[simp] theorem sym2_val (t : Tryte) : (sym2 t).val = unbiased t / 729 := rfl
@[simp] theorem sym1_val (t : Tryte) : (sym1 t).val = unbiased t / 27 % 27 := rfl
@[simp] theorem sym0_val (t : Tryte) : (sym0 t).val = unbiased t % 27 := rfl

@[simp] theorem raw_ofSyms (p2 p1 p0 : Tribble) :
    (ofSyms p2 p1 p0).raw = 729 * (p2.val : Int) + 27 * (p1.val : Int) + (p0.val : Int) - 9841 := rfl

/-- The unbiased value of a tryte built from three symbols is the number their positions spell in base 27. -/
theorem unbiased_ofSyms (p2 p1 p0 : Tribble) :
    unbiased (ofSyms p2 p1 p0) = 729 * p2.val + 27 * p1.val + p0.val := by
  have h := unbiased_cast (ofSyms p2 p1 p0)
  rw [raw_ofSyms] at h
  omega

/-- The integer of a trit is its raw digit less one (rules R88, R89). -/
theorem toInt_tritOfRaw {r : Nat} (h : r < 3) : (tritOfRaw r).toInt = (r : Int) - 1 := by
  match r, h with
  | 0, _ => rfl
  | 1, _ => rfl
  | 2, _ => rfl

theorem toInt_trit (t : Tryte) (i : Nat) : (trit t i).toInt = ((unbiased t / 3 ^ i % 3 : Nat) : Int) - 1 :=
  toInt_tritOfRaw (Nat.mod_lt _ (by decide))

theorem toInt_injective {x y : Trit} (h : x.toInt = y.toInt) : x = y := by
  cases x <;> cases y <;> simp_all [Trit.toInt]

theorem toInt_range (x : Trit) : -1 ≤ x.toInt ∧ x.toInt ≤ 1 := by
  cases x <;> decide

end Sys2Proof.Machine
end

