-- ==== Sys2Proof/Laws/State.lean ====
section
/-! SUPPORT. The state's one field under every update of it. -/

namespace Sys2Proof.Machine

@[simp] theorem mem_withMem (s : State) (m : Memory) : { s with mem := m }.mem = m := rfl

@[simp] theorem mem_reset : State.reset.mem = [] := rfl

theorem state_ext {s t : State} (h : s.mem = t.mem) : s = t := by
  cases s; cases t; cases h; rfl

theorem mem_memWrite_zeroAddr (s : State) (v : Tryte) : (memWrite s zeroAddr v).mem = s.mem := by
  simp [memWrite]

theorem mem_memWrite {a : Tryte} (s : State) (v : Tryte) (h : a ≠ zeroAddr) :
    (memWrite s a v).mem = setCell s.mem (unbiased a) v := by
  simp [memWrite, h]

end Sys2Proof.Machine
end

