-- ==== Sys2Proof/Laws/Memory.lean ====
section
/-! SUPPORT. The laws of the memory list: what a cell reads after each operation, that each keeps the canonical form,
and that two canonical lists that read alike are equal. -/

namespace Sys2Proof.Machine

@[simp] theorem cellAt_nil (k : Nat) : cellAt [] k = Tryte.zero := rfl

theorem cellAt_eraseCell (m : Memory) (k j : Nat) :
    cellAt (eraseCell m k) j = if j = k then Tryte.zero else cellAt m j := by
  induction m with
  | nil => simp [eraseCell]
  | cons e m ih =>
    obtain ⟨k', v'⟩ := e
    unfold eraseCell at ih ⊢
    by_cases h : k' = k
    · subst h
      simp only [ne_eq, not_true_eq_false, decide_false, Bool.false_eq_true, not_false_eq_true,
        List.filter_cons_of_neg, ih, cellAt]
      by_cases hj : j = k'
      · simp [hj]
      · simp [hj, Ne.symm hj]
    · simp only [ne_eq, h, not_false_eq_true, decide_true, List.filter_cons_of_pos, cellAt, ih]
      by_cases hj : k' = j
      · have : j ≠ k := fun e => h (hj.trans e)
        simp [hj, this]
      · simp [hj]

theorem cellAt_insertCell (m : Memory) (k j : Nat) (v : Tryte) (h : cellAt m k = Tryte.zero)
    (hk : ∀ e ∈ m, e.1 ≠ k) : cellAt (insertCell m k v) j = if j = k then v else cellAt m j := by
  induction m with
  | nil => simp [insertCell, cellAt, eq_comm]
  | cons e m ih =>
    obtain ⟨k', v'⟩ := e
    have hk' : k' ≠ k := hk (k', v') (List.mem_cons_self ..)
    simp only [insertCell]
    split
    · simp [cellAt, eq_comm]
    · have h' : cellAt m k = Tryte.zero := by simpa [cellAt, hk'] using h
      simp only [cellAt, ih h' (fun e he => hk e (List.mem_cons_of_mem _ he))]
      by_cases hj : k' = j
      · have : j ≠ k := fun e => hk' (hj.trans e)
        simp [hj, this]
      · simp [hj]

theorem ne_of_mem_eraseCell {m : Memory} {k : Nat} {e : Nat × Tryte} (h : e ∈ eraseCell m k) : e.1 ≠ k := by
  simpa using (List.mem_filter.mp h).2

/-- What a slot holds after a store: for every memory list, canonical or not. -/
theorem cellAt_setCell (m : Memory) (k j : Nat) (v : Tryte) :
    cellAt (setCell m k v) j = if j = k then v else cellAt m j := by
  unfold setCell
  split
  · next h => subst h; exact cellAt_eraseCell m k j
  · rw [cellAt_insertCell _ _ _ _ (by simp [cellAt_eraseCell]) (fun e he => ne_of_mem_eraseCell he),
      cellAt_eraseCell]
    split <;> rfl

theorem risingFrom_mono {m : Memory} {lo lo' : Nat} (hl : lo' ≤ lo) (h : risingFrom lo m = true) :
    risingFrom lo' m = true := by
  cases m with
  | nil => rfl
  | cons e m =>
    simp only [risingFrom, Bool.and_eq_true, decide_eq_true_eq] at h ⊢
    exact ⟨Nat.le_trans hl h.1, h.2⟩

theorem risingFrom_eraseCell {m : Memory} {lo : Nat} (k : Nat) (h : risingFrom lo m = true) :
    risingFrom lo (eraseCell m k) = true := by
  induction m generalizing lo with
  | nil => rfl
  | cons e m ih =>
    simp only [risingFrom, Bool.and_eq_true, decide_eq_true_eq] at h
    unfold eraseCell
    rw [List.filter_cons]
    split
    · simp only [risingFrom, Bool.and_eq_true, decide_eq_true_eq]
      exact ⟨h.1, ih h.2⟩
    · exact risingFrom_mono (by omega) (ih h.2)

theorem risingFrom_insertCell {m : Memory} {lo k : Nat} (v : Tryte) (hlo : lo ≤ k) (hk : ∀ e ∈ m, e.1 ≠ k)
    (h : risingFrom lo m = true) : risingFrom lo (insertCell m k v) = true := by
  induction m generalizing lo with
  | nil => simp [insertCell, risingFrom, hlo]
  | cons e m ih =>
    obtain ⟨k', v'⟩ := e
    have hk' : k' ≠ k := hk (k', v') (List.mem_cons_self ..)
    simp only [risingFrom, Bool.and_eq_true, decide_eq_true_eq] at h
    simp only [insertCell]
    split
    · simp only [risingFrom, Bool.and_eq_true, decide_eq_true_eq]
      exact ⟨hlo, by omega, h.2⟩
    · simp only [risingFrom, Bool.and_eq_true, decide_eq_true_eq]
      exact ⟨h.1, ih (by omega) (fun e he => hk e (List.mem_cons_of_mem _ he)) h.2⟩

theorem mem_insertCell {m : Memory} {k : Nat} {v : Tryte} {e : Nat × Tryte} (h : e ∈ insertCell m k v) :
    e = (k, v) ∨ e ∈ m := by
  induction m with
  | nil => simpa [insertCell] using h
  | cons e' m ih =>
    obtain ⟨k', v'⟩ := e'
    simp only [insertCell] at h
    split at h
    · simpa using h
    · rcases List.mem_cons.mp h with h | h
      · exact .inr (h ▸ List.mem_cons_self ..)
      · exact (ih h).imp id (List.mem_cons_of_mem _)

theorem wf_nil : Memory.wf [] = true := rfl

/-- A store into a slot of the array keeps the canonical form. -/
theorem wf_setCell {m : Memory} {k : Nat} (v : Tryte) (hk : k < 19683) (h : Memory.wf m = true) :
    Memory.wf (setCell m k v) = true := by
  simp only [Memory.wf, Bool.and_eq_true, List.all_eq_true, decide_eq_true_eq] at h ⊢
  have hall : ∀ e ∈ eraseCell m k, e.1 < 19683 ∧ e.2 ≠ Tryte.zero :=
    fun e he => h.2 e (List.mem_of_mem_filter he)
  unfold setCell
  split
  · exact ⟨risingFrom_eraseCell k h.1, hall⟩
  · next hv =>
    refine ⟨risingFrom_insertCell v (Nat.zero_le k) (fun e he => ne_of_mem_eraseCell he)
      (risingFrom_eraseCell k h.1), fun e he => ?_⟩
    rcases mem_insertCell he with rfl | he
    · exact ⟨hk, hv⟩
    · exact hall e he

theorem cellAt_eq_zero_of_rising {m : Memory} {lo k : Nat} (h : risingFrom lo m = true) (hk : k < lo) :
    cellAt m k = Tryte.zero := by
  induction m generalizing lo with
  | nil => rfl
  | cons e m ih =>
    simp only [risingFrom, Bool.and_eq_true, decide_eq_true_eq] at h
    have hne : e.1 ≠ k := by omega
    simp only [cellAt, hne, if_false]
    exact ih h.2 (by omega)

/-- Two canonical lists that read alike in every slot are the same list, so that equal memories are equal data. -/
theorem eq_of_cellAt_eq {m m' : Memory} (hw : Memory.wf m = true) (hw' : Memory.wf m' = true)
    (h : ∀ k, cellAt m k = cellAt m' k) : m = m' := by
  simp only [Memory.wf, Bool.and_eq_true, List.all_eq_true, decide_eq_true_eq] at hw hw'
  obtain ⟨hr, hn⟩ := hw
  obtain ⟨hr', hn'⟩ := hw'
  revert hr hr'
  generalize 0 = lo
  induction m generalizing m' lo with
  | nil =>
    intro hr hr'
    cases m' with
    | nil => rfl
    | cons e m' =>
      have := h e.1
      simp [cellAt] at this
      exact absurd this.symm (hn' e (List.mem_cons_self ..)).2
  | cons e m ih =>
    intro hr hr'
    cases m' with
    | nil =>
      have := h e.1
      simp [cellAt] at this
      exact absurd this (hn e (List.mem_cons_self ..)).2
    | cons e' m' =>
      obtain ⟨k, v⟩ := e
      obtain ⟨k', v'⟩ := e'
      simp only [risingFrom, Bool.and_eq_true, decide_eq_true_eq] at hr hr'
      have hv : v ≠ Tryte.zero := (hn _ (List.mem_cons_self ..)).2
      have hv' : v' ≠ Tryte.zero := (hn' _ (List.mem_cons_self ..)).2
      have hkk : k = k' := by
        rcases Nat.lt_trichotomy k k' with hlt | heq | hgt
        · have hk := h k
          simp only [cellAt, if_true, if_neg (Nat.ne_of_gt hlt)] at hk
          exact absurd (hk.trans (cellAt_eq_zero_of_rising hr'.2 (by omega))) hv
        · exact heq
        · have hk := h k'
          simp only [cellAt, if_true, if_neg (Nat.ne_of_gt hgt)] at hk
          exact absurd (hk.symm.trans (cellAt_eq_zero_of_rising hr.2 (by omega))) hv'
      subst hkk
      have hvv : v = v' := by simpa [cellAt] using h k
      subst hvv
      have htail : m = m' := by
        refine ih (fun j => ?_) (fun e he => hn e (List.mem_cons_of_mem _ he))
          (fun e he => hn' e (List.mem_cons_of_mem _ he)) (k + 1) hr.2 hr'.2
        by_cases hj : k = j
        · subst hj
          rw [cellAt_eq_zero_of_rising hr.2 (Nat.lt_succ_self _),
            cellAt_eq_zero_of_rising hr'.2 (Nat.lt_succ_self _)]
        · simpa [cellAt, hj] using h j
      rw [htail]

end Sys2Proof.Machine
end

