-- ==== Sys2Proof/Laws/Ops.lean ====
section
/-! SUPPORT. What each access primitive does, said once: the read after a write, the fetch, and that each keeps the
invariant. These hold in every state, canonical or not. -/

namespace Sys2Proof.Machine

theorem pcAddr_ne_zeroAddr : pcAddr ≠ zeroAddr := by decide

@[simp] theorem memRead_zeroAddr (s : State) : memRead s zeroAddr = Tryte.zero := by simp [memRead]

@[simp] theorem memRead_reset (a : Tryte) : memRead State.reset a = Tryte.zero := by simp [memRead]

/-- Everything a write can do, as a reader sees it (rules R41, R42). -/
theorem memRead_memWrite (s : State) (a v b : Tryte) :
    memRead (memWrite s a v) b = if b = a ∧ a ≠ zeroAddr then v else memRead s b := by
  by_cases ha : a = zeroAddr
  · simp [memWrite, ha]
  · simp only [memWrite, ha, if_false, memRead, cellAt_setCell, unbiased_inj]
    by_cases hb : b = a
    · simp [hb, ha]
    · simp [hb]

theorem memRead_memWrite_same (s : State) {a : Tryte} (v : Tryte) (h : a ≠ zeroAddr) :
    memRead (memWrite s a v) a = v := by simp [memRead_memWrite, h]

theorem memRead_memWrite_other (s : State) {a b : Tryte} (v : Tryte) (h : b ≠ a) :
    memRead (memWrite s a v) b = memRead s b := by simp [memRead_memWrite, h]

@[simp] theorem memWrite_zeroAddr (s : State) (v : Tryte) : memWrite s zeroAddr v = s := by simp [memWrite]

@[simp] theorem pc_setPc (s : State) (t : Tryte) : pc (setPc s t) = t :=
  memRead_memWrite_same s t pcAddr_ne_zeroAddr

theorem memRead_setPc (s : State) (t b : Tryte) :
    memRead (setPc s t) b = if b = pcAddr then t else memRead s b := by
  simp [setPc, memRead_memWrite, pcAddr_ne_zeroAddr]

/-- Everything a fetch can do (rule R121): the value it returns and every cell after it. -/
theorem fetch_spec (s : State) :
    (fetch s).1 = memRead s (pc s) ∧
      ∀ b, memRead (fetch s).2 b = if b = pcAddr then offsetBy (pc s) 1 else memRead s b :=
  ⟨rfl, fun b => memRead_setPc s _ b⟩

@[simp] theorem pc_fetch (s : State) : pc (fetch s).2 = offsetBy (pc s) 1 := pc_setPc ..

theorem memRead_fetch_other (s : State) {b : Tryte} (h : b ≠ pcAddr) : memRead (fetch s).2 b = memRead s b := by
  simp [(fetch_spec s).2, h]

/-- A write keeps the invariant. -/
theorem inv_memWrite {s : State} (a v : Tryte) (h : s.Inv) : (memWrite s a v).Inv := by
  by_cases ha : a = zeroAddr
  · simpa [memWrite, ha] using h
  · obtain ⟨hw, hz⟩ := h
    rw [State.Inv, mem_memWrite s v ha]
    refine ⟨wf_setCell v (unbiased_lt a) hw, ?_⟩
    rw [cellAt_setCell, if_neg (fun e => ha (unbiased_injective e).symm), hz]

theorem inv_setPc {s : State} (t : Tryte) (h : s.Inv) : (setPc s t).Inv := inv_memWrite _ _ h

theorem inv_fetch {s : State} (h : s.Inv) : (fetch s).2.Inv := inv_setPc _ h

/-- In a state with the invariant a read is the plain cell (the remark after rule R42). -/
theorem memRead_eq_cellAt {s : State} (h : s.Inv) (a : Tryte) : memRead s a = cellAt s.mem (unbiased a) := by
  unfold memRead
  split
  · next ha => rw [ha, h.2]
  · rfl

end Sys2Proof.Machine
end

