-- ==== Sys2Proof/Laws/Operands.lean ====
section
/-! SUPPORT. What each operand decode function does to the state: it can move the program counter past the extension
trytes it takes and change nothing else (rules R124 to R126). -/

namespace Sys2Proof.Machine

@[simp] theorem decodeDst_direct (r : Tribble) (s : State) : decodeDst (.direct r) s = (addrOf r, s) := rfl
@[simp] theorem decodeDst_discard (s : State) : decodeDst .discard s = (zeroAddr, s) := rfl
@[simp] theorem decodeDst_indirect (s : State) : decodeDst .indirect s = fetch s := rfl
@[simp] theorem decodeVal_direct (r : Tribble) (s : State) :
    decodeVal (.direct r) s = (memRead s (addrOf r), s) := rfl
@[simp] theorem decodeVal_discard (s : State) : decodeVal .discard s = fetch s := rfl
@[simp] theorem decodeVal_indirect (s : State) :
    decodeVal .indirect s = (memRead (fetch s).2 (fetch s).1, (fetch s).2) := rfl

theorem offsetBy_zero (a : Tryte) : offsetBy a 0 = a := by simp [offsetBy]

theorem offsetBy_offsetBy (a : Tryte) (m n : Int) : offsetBy (offsetBy a m) n = offsetBy a (m + n) := by
  apply Tryte.ext
  simp only [offsetBy, raw_norm]
  omega

/-- The state after a destination operand is the state before, or the state after one fetch. -/
theorem decodeDst_state (o : Operand) (s : State) :
    ((decodeDst o s).2 = s ∧ o.dstExt = 0) ∨ ((decodeDst o s).2 = (fetch s).2 ∧ o.dstExt = 1) := by
  cases o <;> simp [Operand.dstExt]

/-- The state after a value operand is the state before, or the state after one fetch. -/
theorem decodeVal_state (o : Operand) (s : State) :
    ((decodeVal o s).2 = s ∧ o.valExt = 0) ∨ ((decodeVal o s).2 = (fetch s).2 ∧ o.valExt = 1) := by
  cases o <;> simp [Operand.valExt]

/-- Where the counter stands after a destination operand. -/
theorem pc_decodeDst (o : Operand) (s : State) : pc (decodeDst o s).2 = offsetBy (pc s) o.dstExt := by
  rcases decodeDst_state o s with ⟨e, h⟩ | ⟨e, h⟩ <;> simp [e, h, offsetBy_zero]

/-- Where the counter stands after a value operand. -/
theorem pc_decodeVal (o : Operand) (s : State) : pc (decodeVal o s).2 = offsetBy (pc s) o.valExt := by
  rcases decodeVal_state o s with ⟨e, h⟩ | ⟨e, h⟩ <;> simp [e, h, offsetBy_zero]

/-- A destination operand leaves every cell but the counter as it was. -/
theorem memRead_decodeDst_other (o : Operand) (s : State) {b : Tryte} (h : b ≠ pcAddr) :
    memRead (decodeDst o s).2 b = memRead s b := by
  rcases decodeDst_state o s with ⟨e, _⟩ | ⟨e, _⟩ <;> simp [e, memRead_fetch_other _ h]

/-- A value operand leaves every cell but the counter as it was. -/
theorem memRead_decodeVal_other (o : Operand) (s : State) {b : Tryte} (h : b ≠ pcAddr) :
    memRead (decodeVal o s).2 b = memRead s b := by
  rcases decodeVal_state o s with ⟨e, _⟩ | ⟨e, _⟩ <;> simp [e, memRead_fetch_other _ h]

/-- The state after an operand in both roles is the one after it as a value. -/
theorem decodeBoth_after (o : Operand) (s : State) : (decodeBoth o s).after = (decodeVal o s).2 := by
  cases o <;> rfl

/-- The value of an operand in both roles is the one it has as a value. -/
theorem decodeBoth_val (o : Operand) (s : State) : (decodeBoth o s).val = (decodeVal o s).1 := by
  cases o <;> rfl

/-- The address of an operand in both roles is the one it has as a destination. -/
theorem decodeBoth_addr (o : Operand) (s : State) : (decodeBoth o s).addr = (decodeDst o s).1 := by
  cases o <;> rfl

@[simp] theorem binaryOperands_dst (h l : Operand) (s : State) :
    (binaryOperands h l s).dst = (decodeDst h s).1 := decodeBoth_addr h s
@[simp] theorem binaryOperands_first (h l : Operand) (s : State) :
    (binaryOperands h l s).first = (decodeVal h s).1 := decodeBoth_val h s
@[simp] theorem binaryOperands_second (h l : Operand) (s : State) :
    (binaryOperands h l s).second = (decodeVal l (decodeVal h s).2).1 := by
  rw [← decodeBoth_after h s]; rfl
@[simp] theorem binaryOperands_after (h l : Operand) (s : State) :
    (binaryOperands h l s).after = (decodeVal l (decodeVal h s).2).2 := by
  rw [← decodeBoth_after h s]; rfl

@[simp] theorem dstThenVal_high (h l : Operand) (s : State) : (dstThenVal h l s).high = (decodeDst h s).1 := rfl
@[simp] theorem dstThenVal_low (h l : Operand) (s : State) :
    (dstThenVal h l s).low = (decodeVal l (decodeDst h s).2).1 := rfl
@[simp] theorem dstThenVal_after (h l : Operand) (s : State) :
    (dstThenVal h l s).after = (decodeVal l (decodeDst h s).2).2 := rfl

@[simp] theorem dstThenDst_high (h l : Operand) (s : State) : (dstThenDst h l s).high = (decodeDst h s).1 := rfl
@[simp] theorem dstThenDst_low (h l : Operand) (s : State) :
    (dstThenDst h l s).low = (decodeDst l (decodeDst h s).2).1 := rfl
@[simp] theorem dstThenDst_after (h l : Operand) (s : State) :
    (dstThenDst h l s).after = (decodeDst l (decodeDst h s).2).2 := rfl

@[simp] theorem valThenVal_high (h l : Operand) (s : State) : (valThenVal h l s).high = (decodeVal h s).1 := rfl
@[simp] theorem valThenVal_low (h l : Operand) (s : State) :
    (valThenVal h l s).low = (decodeVal l (decodeVal h s).2).1 := rfl
@[simp] theorem valThenVal_after (h l : Operand) (s : State) :
    (valThenVal h l s).after = (decodeVal l (decodeVal h s).2).2 := rfl

theorem inv_decodeDst {s : State} (o : Operand) (h : s.Inv) : (decodeDst o s).2.Inv := by
  rcases decodeDst_state o s with ⟨e, _⟩ | ⟨e, _⟩
  · rw [e]; exact h
  · rw [e]; exact inv_fetch h

theorem inv_decodeVal {s : State} (o : Operand) (h : s.Inv) : (decodeVal o s).2.Inv := by
  rcases decodeVal_state o s with ⟨e, _⟩ | ⟨e, _⟩
  · rw [e]; exact h
  · rw [e]; exact inv_fetch h

theorem inv_decodeBoth {s : State} (o : Operand) (h : s.Inv) : (decodeBoth o s).after.Inv := by
  rw [decodeBoth_after]; exact inv_decodeVal o h

end Sys2Proof.Machine
end

