-- ==== Sys2Proof/Laws/Execute.lean ====
section
/-! SUPPORT. What the operations the meanings share can do, each said once: the push, the skip, the store of a binary
value operation, the loader's write, the transition. -/

namespace Sys2Proof.Machine

/-- Everything the push shared by `PSH` and `CAL` can do, as a reader sees it: the stack register's own cell wins. -/
theorem memRead_pushAt (sa v : Tryte) (s : State) (b : Tryte) :
    memRead (pushAt sa v s) b =
      if b = sa ∧ sa ≠ zeroAddr then offsetBy (memRead s sa) Config.stackStep
      else if b = memRead s sa ∧ memRead s sa ≠ zeroAddr then v else memRead s b := by
  simp only [pushAt, memRead_memWrite]

theorem inv_pushAt {s : State} (sa v : Tryte) (h : s.Inv) : (pushAt sa v s).Inv :=
  inv_memWrite _ _ (inv_memWrite _ _ h)

@[simp] theorem lessThan_iff (a b : Tryte) : lessThan a b = true ↔ a.raw < b.raw := by simp [lessThan]
@[simp] theorem greaterOrEqual_iff (a b : Tryte) : greaterOrEqual a b = true ↔ b.raw ≤ a.raw := by
  simp [greaterOrEqual]
@[simp] theorem greaterThan_iff (a b : Tryte) : greaterThan a b = true ↔ b.raw < a.raw := by simp [greaterThan]
@[simp] theorem lessOrEqual_iff (a b : Tryte) : lessOrEqual a b = true ↔ a.raw ≤ b.raw := by simp [lessOrEqual]
@[simp] theorem equal_iff (a b : Tryte) : equal a b = true ↔ a.raw = b.raw := by simp [equal]
@[simp] theorem notEqual_iff (a b : Tryte) : notEqual a b = true ↔ a.raw ≠ b.raw := by simp [notEqual]

@[simp] theorem skipIf_true (s : State) : skipIf true s = setPc s (offsetBy (pc s) 1) := rfl
@[simp] theorem skipIf_false (s : State) : skipIf false s = s := rfl

/-- Everything a skip can do: the counter moves by one more tryte, or nothing does. -/
theorem memRead_skipIf (p : Bool) (s : State) (b : Tryte) :
    memRead (skipIf p s) b = if b = pcAddr ∧ p = true then offsetBy (pc s) 1 else memRead s b := by
  cases p <;> simp [memRead_setPc]

theorem inv_skipIf {s : State} (p : Bool) (h : s.Inv) : (skipIf p s).Inv := by
  cases p
  · exact h
  · exact inv_setPc _ h

/-- A binary value operation over `binaryStore` always completes, with one store. -/
theorem binaryStore_next (f : Tryte → Tryte → Tryte) (h l : Operand) (s : State) :
    binaryStore f h l s =
      .next (memWrite (binaryOperands h l s).after (binaryOperands h l s).dst
        (f (binaryOperands h l s).first (binaryOperands h l s).second)) := rfl

/-- A skip-predicate always completes. -/
theorem skipOn_next (pred : Tryte → Tryte → Bool) (h l : Operand) (s : State) :
    skipOn pred h l s =
      .next (skipIf (pred (valThenVal h l s).high (valThenVal h l s).low) (valThenVal h l s).after) := rfl

theorem inv_writeTrytes {s : State} (a : Tryte) (ts : List Tryte) (h : s.Inv) : (writeTrytes s a ts).Inv := by
  induction ts generalizing s a with
  | nil => exact h
  | cons v vs ih => exact ih _ (inv_memWrite _ _ h)

/-- The transition is the decoded instruction run in the state after the instruction fetch. -/
theorem stepWith_eq (hasDiv : Bool) (s : State) :
    stepWith hasDiv s = runDecoded hasDiv (decode (memRead s (pc s))) (setPc s (offsetBy (pc s) 1)) := rfl

theorem runDecoded_offered {hasDiv : Bool} {i : Instr} (s : State) (h : i.offered hasDiv = true) :
    runDecoded hasDiv i s = exec i s := by simp [runDecoded, h]

theorem runDecoded_not_offered {hasDiv : Bool} {i : Instr} (s : State) (h : i.offered hasDiv = false) :
    runDecoded hasDiv i s = raiseUnimplemented i.opcode s := by simp [runDecoded, h]

end Sys2Proof.Machine
end

