-- ==== Sys2Proof/Laws/PerInstr.lean ====
section
/-! SUPPORT. A family proved instruction by instruction: the opcode symbol of rule R67 stands in the most significant
tribble of the instruction tryte, and the two operand symbols in the other two (rule R60). -/

namespace Sys2Proof.Laws.FieldPlacement

open Sys2Proof.Machine

/-- The three tribble symbols of an instruction's tryte are its opcode symbol, its high and its low symbol. -/
def Statement (i : Instr) : Prop := tribbleString (encode i) = [i.opcode, i.high, i.low]

/-- The split of rule R83 recovers the three symbols a tryte is built from. -/
theorem tribbleString_ofSyms (p2 p1 p0 : Tribble) : tribbleString (ofSyms p2 p1 p0) = [p2, p1, p0] := by
  have h := unbiased_ofSyms p2 p1 p0
  simp only [tribbleString, List.cons.injEq, Fin.ext_iff, sym2_val, sym1_val, sym0_val, h, and_true]
  omega

theorem add (h l : Operand) : Statement (.add h l) := tribbleString_ofSyms ..

theorem slt (h l : Operand) : Statement (.slt h l) := tribbleString_ofSyms ..

theorem cal (h l : Operand) : Statement (.cal h l) := tribbleString_ofSyms ..

theorem div (h l : Operand) : Statement (.div h l) := tribbleString_ofSyms ..

theorem seq (h l : Operand) : Statement (.seq h l) := tribbleString_ofSyms ..

theorem unimpF (h l : Tribble) : Statement (.unimpF h l) := tribbleString_ofSyms ..

theorem sge (h l : Operand) : Statement (.sge h l) := tribbleString_ofSyms ..

theorem hwi (h l : Tribble) : Statement (.hwi h l) := tribbleString_ofSyms ..

theorem ldi (h : Operand) (k : Tribble) : Statement (.ldi h k) := tribbleString_ofSyms ..

theorem jmp (h l : Tribble) : Statement (.jmp h l) := tribbleString_ofSyms ..

theorem adi (h : Operand) (k : Tribble) : Statement (.adi h k) := tribbleString_ofSyms ..

theorem ldx (h l : Operand) : Statement (.ldx h l) := tribbleString_ofSyms ..

theorem mov (h l : Operand) : Statement (.mov h l) := tribbleString_ofSyms ..

theorem unimp0 (h l : Tribble) : Statement (.unimp0 h l) := tribbleString_ofSyms ..

theorem and (h l : Operand) : Statement (.and h l) := tribbleString_ofSyms ..

theorem pop (h l : Operand) : Statement (.pop h l) := tribbleString_ofSyms ..

theorem psh (h l : Operand) : Statement (.psh h l) := tribbleString_ofSyms ..

theorem unimpQ (h l : Tribble) : Statement (.unimpQ h l) := tribbleString_ofSyms ..

theorem orr (h l : Operand) : Statement (.orr h l) := tribbleString_ofSyms ..

theorem sub (h l : Operand) : Statement (.sub h l) := tribbleString_ofSyms ..

theorem tri (h l : Operand) : Statement (.tri h l) := tribbleString_ofSyms ..

theorem sne (h l : Operand) : Statement (.sne h l) := tribbleString_ofSyms ..

theorem unimpV (h l : Tribble) : Statement (.unimpV h l) := tribbleString_ofSyms ..

theorem stx (h l : Operand) : Statement (.stx h l) := tribbleString_ofSyms ..

theorem mul (h l : Operand) : Statement (.mul h l) := tribbleString_ofSyms ..

theorem unimpY (h l : Tribble) : Statement (.unimpY h l) := tribbleString_ofSyms ..

theorem unimpZ (h l : Tribble) : Statement (.unimpZ h l) := tribbleString_ofSyms ..

end Sys2Proof.Laws.FieldPlacement
end

