-- ==== Sys2Proof/Tests/Slice0.lean ====
section
/-! SUPPORT. The model's own tests. Expected values come from the spec: the words from rule R60
(`729 * dig(op) + 27 * dig(h) + dig(l)`) and the examples of the instruction rules, the results from those examples and
from 95_test_vectors.md. Then, for each obligation with hypotheses, a witness that meets them. -/

namespace Sys2Proof.Tests

open Machine

/-! ## Well-formedness: one ill-formed term for each check -/

theorem test_wf_refuses_direct_discard_marker : (Instr.mov (.direct 13) (.direct 0)).wellFormed = false := by decide
theorem test_wf_refuses_direct_indirect_marker : (Instr.mov (.direct 0) (.direct 8)).wellFormed = false := by decide
theorem test_wf_refuses_in_destination_only_role : (Instr.ldi (.direct 13) 13).wellFormed = false := by decide
theorem test_wf_accepts_marker_digits : (Instr.jmp 13 8).wellFormed = true := by decide
theorem test_config_wf : configWellFormed = true := by decide
theorem test_alphabet_refuses_a_repeat : alphabetWellFormed ('B' :: Config.alphabet.tail) = false := by decide
theorem test_alphabet_refuses_a_short_list : alphabetWellFormed Config.alphabet.tail = false := by decide
theorem test_alphabet_refuses_white_space : alphabetWellFormed (' ' :: Config.alphabet.tail) = false := by decide
theorem test_alphabet_refuses_lower_case : alphabetWellFormed ('a' :: Config.alphabet.tail) = false := by decide
theorem test_trit_alphabet_refuses_a_repeat : tritAlphabetWellFormed ['-', '0', '-'] = false := by decide
theorem test_trit_alphabet_refuses_two : tritAlphabetWellFormed ['-', '0'] = false := by decide
theorem test_reserved_symbols_refuse_a_clash : reservedSymbolsWellFormed [16, 19, 26, 13, 13] = false := by decide
theorem test_stack_step_refuses_zero : stackStepWellFormed 0 = false := by decide

/-! ## Decoding: a word of every constructor, from the formula of rule R60 -/

theorem test_decode_add : decode (Tryte.norm (-9732)) = .add (.direct 4) (.direct 1) := by decide
theorem test_decode_slt : decode (Tryte.norm (729 * -12 + 27 * -13 + -12)) = .slt (.direct 0) (.direct 1) := by decide
theorem test_decode_cal : decode (Tryte.norm (-7857)) = .cal (.direct 19) .discard := by decide
theorem test_decode_div : decode (Tryte.norm (-7653)) = .div (.direct 0) (.direct 1) := by decide
theorem test_decode_seq : decode (Tryte.norm (-6872)) = .seq (.direct 1) (.direct 26) := by decide
theorem test_decode_unimpF : decode (Tryte.norm (-5837)) = .unimpF 13 8 := by decide
theorem test_decode_sge : decode (Tryte.norm (729 * -7 + 27 * -5 + 13)) = .sge .indirect (.direct 26) := by decide
theorem test_decode_hwi : decode (Tryte.norm (729 * -6 + 27 * 0 + -5)) = .hwi 13 8 := by decide
theorem test_decode_ldi : decode (Tryte.norm (-3989)) = .ldi (.direct 0) 20 := by decide
theorem test_decode_jmp : decode (Tryte.norm (-2920)) = .jmp 13 9 := by decide
theorem test_decode_adi : decode (Tryte.norm (-2512)) = .adi (.direct 1) 12 := by decide
theorem test_decode_ldx : decode (Tryte.norm (-1767)) = .ldx (.direct 2) (.direct 1) := by decide
theorem test_decode_mov : decode (Tryte.norm (-864)) = .mov .indirect .discard := by decide
theorem test_decode_unimp0 : decode (Tryte.norm 0) = .unimp0 13 13 := by decide
theorem test_decode_and : decode (Tryte.norm (729 * 1 + 27 * -13 + -12)) = .and (.direct 0) (.direct 1) := by decide
theorem test_decode_pop : decode (Tryte.norm 1611) = .pop (.direct 19) (.direct 4) := by decide
theorem test_decode_psh : decode (Tryte.norm 2336) = .psh (.direct 19) (.direct 0) := by decide
theorem test_decode_unimpQ : decode (Tryte.norm 2553) = .unimpQ 0 1 := by decide
theorem test_decode_orr : decode (Tryte.norm (729 * 5 + 27 * -11 + -10)) = .orr (.direct 2) (.direct 3) := by decide
theorem test_decode_sub : decode (Tryte.norm 4067) = .sub (.direct 2) (.direct 3) := by decide
theorem test_decode_tri : decode (Tryte.norm 4801) = .tri (.direct 2) .indirect := by decide
theorem test_decode_sne : decode (Tryte.norm (729 * 8 + 27 * 0 + 0)) = .sne .discard .discard := by decide
theorem test_decode_unimpV : decode (Tryte.norm 6198) = .unimpV 0 1 := by decide
theorem test_decode_stx : decode (Tryte.norm 6953) = .stx (.direct 1) (.direct 0) := by decide
theorem test_decode_mul : decode (Tryte.norm 7768) = .mul (.direct 4) (.direct 5) := by decide
theorem test_decode_unimpY : decode (Tryte.norm 8385) = .unimpY 0 1 := by decide
theorem test_decode_unimpZ : decode (Tryte.norm 9114) = .unimpZ 0 1 := by decide
theorem test_decode_text_refuses_by_name : decodeText ['a', 'b', 'c'] = .error (.unknownSymbol 0 'a') :=
  by decide
theorem test_table_word : decodeTableWord 16 (729 * 12 + 27 * 4 + 0) = some (.mov (.direct 4) (.direct 0)) := by decide
theorem test_table_word_refuses : decodeTableWord 16 19683 = none := by decide

/-! ## The Tryte unit (95_test_vectors.md sections 2 and 3.1) -/

theorem test_norm_wraps : (Tryte.norm 100000).raw = 1585 ∧ (Tryte.norm (-2147483648)).raw = -9299 := by decide
theorem test_tribbles : tribbleText (Tryte.norm 100) = ['0', 'Q', 'F'] := by decide
theorem test_from_tribbles : fromTribbles ['O', '0', '0'] = .ok (Tryte.norm 1458) := by decide
theorem test_from_tribbles_symbol : fromTribbles ['A', '1', 'B'] = .error (.unknownSymbol 1 '1') := by decide
theorem test_from_tribbles_length : fromTribbles ['?', '?'] = .error .wrongLength := by decide
theorem test_trits : tritText (Tryte.norm 100) = ['0', '0', '0', '0', '+', '+', '-', '0', '+'] := by decide
theorem test_from_trits :
    fromTrits ['0', '0', '0', '0', '0', '0', '0', '0', 'x'] = .error (.unknownSymbol 8 'x') := by decide
theorem test_raw_trits : fromRawTrits [1, 1, 1, 1, 2, 2, 0, 1, 2] = .ok (Tryte.norm 100) := by decide
theorem test_mul_wraps : (mul (Tryte.norm 123) (Tryte.norm (-456))).raw = 2961 := by decide
theorem test_and : (and_ (Tryte.norm 123) (Tryte.norm (-456))).raw = -606 := by decide
theorem test_or : (or_ (Tryte.norm 4000) (Tryte.norm 3)).raw = 6916 := by decide
theorem test_div_floor : (div (Tryte.norm (-7)) (Tryte.norm 2)).raw = -4 := by decide
theorem test_tri_product :
    (genericTritwiseOp (Tryte.norm 42) (Tryte.norm (-4)) (tableOf (Tryte.norm 164))).raw = 47 := by decide

/-! ## One step each (95_test_vectors.md sections 3.2 to 3.6) -/

/-- A state with the given trytes from address 27 upward, the given cells, and the counter at 27. -/
def at27 (words : List Int) (cells : List (Int × Int)) : State :=
  let s := writeTrytes State.reset (Tryte.norm 27) (words.map Tryte.norm)
  cells.foldl (fun s c => memWrite s (Tryte.norm c.1) (Tryte.norm c.2)) (setPc s (Tryte.norm 27))

/-- The values of the given cells where a result is a next state. -/
def cellsAfter (r : Result) (cells : List Int) : List Int :=
  match r with
  | .next t => cells.map (fun a => (memRead t (Tryte.norm a)).raw)
  | _ => []

/-- The symbol and the counter where a result is the error of a step. -/
def errorOf (r : Result) : Option (Tribble × Int) :=
  match r with
  | .fault (.unimplementedOpcode sym t) => some (sym, (pc t).raw)
  | _ => none

theorem test_psh_two_extensions :
    cellsAfter (step (at27 [2052, 200, 9] [(200, 300)])) [300, 200, 3] = [9, 299, 30] := by decide
theorem test_psh_pointer_at_itself :
    cellsAfter (step (at27 [2336] [(6, 6), (-13, 50)])) [6, 3] = [5, 28] := by decide
theorem test_pop_two_extensions :
    cellsAfter (step (at27 [1318, 200, 100] [(200, 300), (301, 4)])) [200, 100, 3] = [301, 4, 30] := by decide
theorem test_pop_into_its_own_register :
    cellsAfter (step (at27 [1626] [(6, 363), (364, 77)])) [6, 3] = [77, 28] := by decide
theorem test_cal : cellsAfter (step (at27 [-7857, 54] [(6, 364)])) [364, 6, 3] = [29, 363, 54] := by decide
theorem test_cal_two_extensions :
    cellsAfter (step (at27 [-8154, 200, 54] [(200, 300)])) [300, 200, 3] = [30, 299, 54] := by decide
theorem test_mov : cellsAfter (step (at27 [-864, 101, 9] [])) [101, 3] = [9, 30] := by decide
theorem test_mov_discard_high : cellsAfter (step (at27 [-729, 5, 1] [])) [13, 3] = [0, 30] := by decide
theorem test_add_reads_pc_before_the_immediate : cellsAfter (step (at27 [-9396, 5] [])) [3] = [33] := by decide
theorem test_add_memory_wraps :
    cellsAfter (step (at27 [-9612, 101, 1] [(101, 9841)])) [101, 3] = [-9841, 30] := by decide
theorem test_sub : cellsAfter (step (at27 [4067] [(-11, 3), (-10, 4)])) [-11, 3] = [-1, 28] := by decide
theorem test_mul : cellsAfter (step (at27 [7768] [(-9, 5), (-8, 6)])) [-9, 3] = [30, 28] := by decide
theorem test_and_step : cellsAfter (step (at27 [366] [(-13, 42), (-12, -4)])) [-13, 3] = [-40, 28] := by decide
theorem test_orr : cellsAfter (step (at27 [3338] [(-11, 42), (-10, -4)])) [-11, 3] = [78, 28] := by decide
theorem test_tri :
    cellsAfter (step (at27 [4968, 100, 9, -212] [(100, 7)])) [100, 3] = [10, 31] := by decide
theorem test_tri_table_last : cellsAfter (step (at27 [4801, 101, -350] [(-11, 7), (101, 9)])) [-11, 3] = [6, 30] := by
  decide
theorem test_ldx : cellsAfter (step (at27 [-1767] [(-12, 100), (100, 7)])) [-11, 3] = [7, 28] := by decide
theorem test_ldx_double :
    cellsAfter (step (at27 [-1814, 100] [(100, 200), (200, 42)])) [-13, 3] = [42, 29] := by decide
theorem test_stx : cellsAfter (step (at27 [6953] [(-12, 100), (-13, 7)])) [100, -12, 3] = [7, 100, 28] := by decide
theorem test_stx_double :
    cellsAfter (step (at27 [7142, 100] [(100, 200), (-13, 42)])) [200, 100, 3] = [42, 200, 29] := by decide
theorem test_div_offered :
    cellsAfter (stepWith true (at27 [-7653] [(-13, -7), (-12, 2)])) [-13, 3] = [-4, 28] := by decide
theorem test_div_not_offered : errorOf (step (at27 [-7653] [(-13, 7), (-12, 2)])) = some (3, 28) := by decide
theorem test_jmp_digits_are_no_markers : cellsAfter (step (at27 [-3051] [])) [3] = [-107] := by decide
theorem test_jmp_self : cellsAfter (step (at27 [-2917] [])) [3] = [27] := by decide
theorem test_slt : cellsAfter (step (at27 [-9111] [(-13, -9841), (-12, 9841)])) [3] = [29] := by decide
theorem test_slt_equal : cellsAfter (step (at27 [-9111] [(-13, 2), (-12, 2)])) [3] = [28] := by decide
theorem test_sge : cellsAfter (step (at27 [-5466] [(-13, 2), (-12, 2)])) [3] = [29] := by decide
theorem test_seq_reads_pc_after_the_immediate : cellsAfter (step (at27 [-6558, 29] [])) [3] = [30] := by decide
theorem test_sne : cellsAfter (step (at27 [5832, 1, 2] [])) [3] = [31] := by decide
theorem test_ldi : cellsAfter (step (at27 [-3989] [])) [-13, 3] = [7, 28] := by decide
theorem test_ldi_indirect : cellsAfter (step (at27 [-3793, 100] [])) [100, 3] = [-13, 29] := by decide
theorem test_adi : cellsAfter (step (at27 [-2309, 100] [(100, 9835)])) [100, 3] = [-9835, 29] := by decide
theorem test_adi_pc : cellsAfter (step (at27 [-2104] [])) [3] = [30] := by decide
theorem test_hwi : step (at27 [-4379] []) = .next (setPc (at27 [-4379] []) (Tryte.norm 28)) := rfl
theorem test_unimpF : errorOf (step (at27 [-5837] [])) = some (5, 28) := by decide
theorem test_unimp0 : errorOf (step State.reset) = some (13, 1) := by decide
theorem test_unimpQ : errorOf (step (at27 [2553] [])) = some (17, 28) := by decide
theorem test_unimpV : errorOf (step (at27 [6198] [])) = some (22, 28) := by decide
theorem test_unimpY : errorOf (step (at27 [8385] [])) = some (25, 28) := by decide
theorem test_unimpZ : errorOf (step (at27 [9114] [])) = some (26, 28) := by decide

/-! ## The host interface (95_test_vectors.md section 3.7) -/

theorem test_load_drops_the_zero_register :
    hostLoad State.reset (.raw 12) ['0', '0', 'N', ' ', '0', '0', 'o', ' ', '0', '0', 'P'] =
      .completes 3 (memWrite (memWrite State.reset (Tryte.norm 12) (Tryte.norm 1)) (Tryte.norm 14) (Tryte.norm 3)) := by
  decide
theorem test_load_bad_length :
    hostLoad State.reset (.raw 27) ['M', 'E', 'A', 'A', 'E'] = .raises (.loader .badLength) State.reset := by decide
theorem test_load_bad_symbol :
    hostLoad State.reset (.raw 27) ['A', '1', 'B'] = .raises (.loader .unknownSymbol) State.reset := by decide
theorem test_read_text_index : hostRead (setPc State.reset (Tryte.norm 27)) (.text ['0', '0', 'P']) =
    .completes (Tryte.norm 27) (setPc State.reset (Tryte.norm 27)) := by decide
theorem test_fetch_word_runs_first :
    cellsAfter (step (State.reset.withFetchWord 16 (729 * 8 + 27 * 0 + 20))) [-13, 3] = [7, 28] := by decide

/-! ## Witnesses: the hypotheses of the obligations can be met -/

theorem witness_ThreeEncodingsRoundTrip :
    (-9841 ≤ (9841 : Int) ∧ (9841 : Int) ≤ 9841) ∧ fromTribbles ['Z', 'Z', 'Z'] = .ok (construct 9841) ∧
      fromTrits ['-', '-', '-', '-', '-', '-', '-', '-', '-'] = .ok (construct (-9841)) := by decide

theorem witness_FromTribblesChecksLengthThenSymbols :
    ([] : List Char).length ≠ 3 ∧ ['A', 'B', 'C', 'D'].length ≠ 3 ∧
      ((['0', 'Z'] ++ 'a' :: []).length = 3 ∧ (∀ x ∈ ['0', 'Z'], symOfChar x ≠ none) ∧ symOfChar 'a' = none) ∧
      (([] ++ '1' :: ['?', 'A'] : List Char).length = 3 ∧ symOfChar '1' = none) ∧
      symOfChar 'A' = some 0 ∧ symOfChar '0' = some 13 ∧ symOfChar 'Z' = some 26 :=
  ⟨by decide, by decide,
    ⟨by decide, by intro x hx; simp at hx; rcases hx with rfl | rfl <;> decide, by decide⟩, ⟨by decide, by decide⟩, by decide, by decide, by decide⟩

theorem witness_TritConversionsCheckLengthThenSymbols :
    ['+'].length ≠ 9 ∧ ((['+', '-', '0', '+', '-', '0', '+', '-'] ++ 'N' :: []).length = 9 ∧
      (∀ x ∈ ['+', '-', '0', '+', '-', '0', '+', '-'], x ∈ Config.tritAlphabet) ∧ 'N' ∉ Config.tritAlphabet) ∧
      ([] : List Int).length ≠ 9 ∧
      (([0, 1, 2, 0, 1, 2, 0, 2] ++ (3 : Int) :: []).length = 9 ∧
        (∀ x ∈ [(0 : Int), 1, 2, 0, 1, 2, 0, 2], 0 ≤ x ∧ x ≤ 2) ∧ ¬ (0 ≤ (3 : Int) ∧ (3 : Int) ≤ 2)) :=
  ⟨by decide, ⟨by decide, by simp [Config.tritAlphabet], by decide⟩, by decide, by decide, by decide, by decide⟩

theorem witness_RawTritsInvertFromRawTrits :
    fromRawTrits [0, 0, 0, 0, 0, 0, 0, 0, 0] = .ok (construct (-9841)) := by decide

theorem witness_DivisionIsFloorWithZeroGuard :
    Tryte.zero.raw = 0 ∧ 0 < (construct 1).raw ∧ (construct (-1)).raw < 0 := by decide

theorem witness_NegationNegatesEveryTrit : (0 : Nat) < 9 ∧ (8 : Nat) < 9 := by decide

theorem witness_TritwiseAndIsMinAndOrIsMax : (0 : Nat) < 9 ∧ (8 : Nat) < 9 := by decide

theorem witness_GenericTritwiseAppliesTheTable : (0 : Nat) < 9 ∧ (8 : Nat) < 9 := by decide

/-- A state that meets the invariant and holds `MOV E, A` at 27 with the counter there. -/
theorem inv_at27 : (at27 [-985] [(-13, 1)]).Inv := by unfold State.Inv; decide

theorem witness_EveryStepKeepsTheInvariant :
    (at27 [-985] [(-13, 1)]).Inv ∧ (∃ t, step (at27 [-985] [(-13, 1)]) = .next t) ∧
      (at27 [2553] []).Inv ∧ ∃ sym t, stepWith false (at27 [2553] []) = .fault (.unimplementedOpcode sym t) :=
  ⟨inv_at27, ⟨_, rfl⟩, by unfold State.Inv; decide, ⟨_, _, rfl⟩⟩

theorem witness_HostTransactionsKeepTheInvariant :
    (at27 [-985] [(-13, 1)]).Inv ∧ (∃ t, hostWrite (at27 [-985] [(-13, 1)]) (.raw 13) (construct 5) = .completes () t) ∧
      (∃ n t, hostLoad (at27 [-985] [(-13, 1)]) (.raw 12) ['0', '0', 'N', '0', '0', 'O'] = .completes n t) ∧
      ∃ t, runUntil (construct 28) 5 (at27 [-985] [(-13, 1)]) = .completes () t :=
  ⟨inv_at27, ⟨_, rfl⟩, ⟨2, memWrite (at27 [-985] [(-13, 1)]) (construct 12) (construct 1), by decide⟩,
    ⟨memWrite (setPc (at27 [-985] [(-13, 1)]) (construct 28)) (construct (-9)) (construct 1), by decide⟩⟩

theorem witness_FetchSeesTheLatestStore :
    (pc (at27 [] []) ≠ pcAddr ∧ pc (at27 [] []) ≠ zeroAddr) ∧ pc (setPc State.reset pcAddr) = pcAddr := by decide

theorem witness_DecodeOfEncodeIsTheInstruction : (Instr.tri .indirect .discard).wellFormed = true := by decide

theorem witness_BinaryOperandsResolveHighOnceThenLow : Operand.indirect = .indirect := rfl

theorem witness_StepRunsTheDecodedInstruction :
    ((Instr.mov (.direct 4) (.direct 0)).wellFormed = true ∧
      memRead (at27 [-985] []) (pc (at27 [-985] [])) = encode (.mov (.direct 4) (.direct 0)) ∧
      (Instr.mov (.direct 4) (.direct 0)).offered true = true) ∧
    ((Instr.div (.direct 0) (.direct 1)).wellFormed = true ∧
      memRead (at27 [-7653] []) (pc (at27 [-7653] [])) = encode (.div (.direct 0) (.direct 1)) ∧
      (Instr.div (.direct 0) (.direct 1)).offered false = false) := by decide

theorem witness_UnassignedOpcodeRaisesAndAdvancesOnce :
    ¬ AssignedOpcode false (sym2 (memRead (at27 [-7653] []) (pc (at27 [-7653] [])))) ∧
      AssignedOpcode true (sym2 (memRead (at27 [-7653] []) (pc (at27 [-7653] [])))) ∧
      ¬ AssignedOpcode true (sym2 (memRead State.reset (pc State.reset))) := by
  unfold AssignedOpcode; decide

theorem witness_SteppingOnAfterTheErrorSkipsTheTryte :
    hostStep (at27 [2553, -2537] []) = .raises (.unimplementedOpcode 17) (setPc (at27 [2553, -2537] []) (construct 28)) ∧
      (Instr.adi (.direct 0) 14).wellFormed = true ∧ (Instr.adi (.direct 0) 14).offered Config.hasDiv = true ∧
      memRead (at27 [2553, -2537] []) (offsetBy (pc (at27 [2553, -2537] [])) 1) = encode (.adi (.direct 0) 14) ∧
      offsetBy (pc (at27 [2553, -2537] [])) 1 ≠ pcAddr := by decide

/-- The clauses of the three stack statements: an ordinary stack, one that points at its own cell, one at the zero
register, one at the counter, and the zero register as the stack register. -/
theorem witness_PshStoresThenAdjusts :
    (addrOf 19 ≠ zeroAddr ∧ memRead (at27 [] [(6, 364)]) (addrOf 19) ≠ addrOf 19 ∧
      memRead (at27 [] [(6, 364)]) (addrOf 19) ≠ pcAddr ∧ addrOf 19 ≠ pcAddr) ∧
    memRead (at27 [] [(6, 6)]) (addrOf 19) = addrOf 19 ∧ memRead (at27 [] [(6, 13)]) (addrOf 19) = zeroAddr ∧
    memRead (at27 [] [(6, 3)]) (addrOf 19) = pcAddr ∧ (decodeDst .discard State.reset).1 = zeroAddr := by
  decide

theorem witness_PopAdjustsThenLoads :
    (decodeDst (.direct 19) State.reset).1 ≠ (decodeDst (.direct 0) (decodeDst (.direct 19) State.reset).2).1 ∧
      (decodeDst (.direct 19) State.reset).1 ≠ zeroAddr ∧ (decodeDst (.direct 19) State.reset).1 ≠ pcAddr ∧
      (decodeDst (.direct 0) (decodeDst (.direct 19) State.reset).2).1 ≠ pcAddr ∧
      (decodeDst .discard (decodeDst (.direct 19) State.reset).2).1 = zeroAddr := by decide

theorem witness_CalPushesTheReturnAddress :
    (decodeDst (.direct 19) (at27 [] [(6, 364)])).1 ≠ zeroAddr ∧
      (decodeDst (.direct 19) (at27 [] [(6, 364)])).1 ≠ pcAddr ∧
      memRead (decodeVal .discard (decodeDst (.direct 19) (at27 [] [(6, 364)])).2).2 (addrOf 19) ≠ pcAddr ∧
      memRead (decodeVal .discard (decodeDst (.direct 19) (at27 [] [(6, 364)])).2).2 (addrOf 19) ≠ addrOf 19 := by
  decide

theorem witness_PopUndoesPush :
    addrOf 19 ≠ pcAddr ∧ addrOf 19 ≠ zeroAddr ∧ (19 : Tribble) ≠ 4 ∧ addrOf 4 ≠ zeroAddr ∧
      regRead (at27 [5] [(6, 364)]) 19 ≠ addrOf 19 ∧ regRead (at27 [5] [(6, 364)]) 19 ≠ pcAddr ∧
      regRead (at27 [5] [(6, 364)]) 19 ≠ zeroAddr ∧
      ∃ t u, exec (.psh (.direct 19) .discard) (at27 [5] [(6, 364)]) = .next t ∧
        exec (.pop (.direct 19) (.direct 4)) (fetch t).2 = .next u :=
  ⟨by decide, by decide, by decide, by decide, by decide, by decide, by decide, _, _, rfl, rfl⟩

theorem witness_ReturnUndoesCall :
    addrOf 19 ≠ pcAddr ∧ addrOf 19 ≠ zeroAddr ∧
      regRead (at27 [54] [(6, 364)]) 19 ≠ addrOf 19 ∧ regRead (at27 [54] [(6, 364)]) 19 ≠ pcAddr ∧
      regRead (at27 [54] [(6, 364)]) 19 ≠ zeroAddr ∧
      ∃ t u, exec (.cal (.direct 19) .discard) (at27 [54] [(6, 364)]) = .next t ∧
        exec (.pop (.direct 19) (.direct Config.pcSym)) (fetch t).2 = .next u :=
  ⟨by decide, by decide, by decide, by decide, by decide, _, _, rfl, rfl⟩

theorem witness_DivStoresTheGuardedQuotient :
    (Operand.direct 0).wellFormed = true ∧ (Operand.direct 1).wellFormed = true ∧
      memRead (at27 [-7653] []) (pc (at27 [-7653] [])) = encode (.div (.direct 0) (.direct 1)) := by decide

theorem witness_SelfJumpIsAFixedPoint :
    (at27 [-2917] []).Inv ∧ memRead (at27 [-2917] []) (pc (at27 [-2917] [])) = encode (.jmp 13 12) := by
  unfold State.Inv; decide

theorem witness_HwiOnlyAdvancesTheCounter :
    memRead (at27 [-4379] []) (pc (at27 [-4379] [])) = encode (.hwi 13 8) := by decide

theorem witness_HostWriteThenRead :
    (Index.raw 3).resolve = .address pcAddr ∧ (Index.text ['0', '0', 'P']).resolve = .address pcAddr ∧
      (Index.raw 13).resolve = .address zeroAddr ∧ (-9841 ≤ (-9841 : Int) ∧ (-9841 : Int) ≤ 9841) ∧
      ¬ (-9841 ≤ (9842 : Int) ∧ (9842 : Int) ≤ 9841) ∧
      fromTribbles ['0', 'o', '0'] = .error (.unknownSymbol 1 'o') := by decide

theorem witness_LoadWritesConsecutiveCells :
    (Index.raw 9841).resolve = .address (construct 9841) ∧
      parseText ['0', '0', 'N', '0', '0', 'O'] = .ok [construct 1, construct 2] ∧
      [construct 1, construct 2].length ≤ 19683 ∧
      hostLoad State.reset (.raw 9841) ['0', '0', 'N', '0', '0', 'O'] =
        .completes 2 (memWrite (memWrite State.reset (construct 9841) (construct 1)) (construct (-9841)) (construct 2)) ∧
      [construct 1, construct 2][1]? = some (construct 2) ∧
      (∀ k, k < [construct 1, construct 2].length → Tryte.zero ≠ offsetBy (construct 9841) k) := by decide

theorem witness_LoaderAcceptsExactlyTribbleText :
    parseText ['a', 'e', ' ', 'c'] = .ok [construct (-9731)] ∧ (cleanText ['A', 'E']).length % 3 ≠ 0 ∧
      ((cleanText ['A', '1', 'B']).length % 3 = 0 ∧ '1' ∈ cleanText ['A', '1', 'B'] ∧ '1' ∉ Config.alphabet) := by decide

theorem witness_CleaningDropsWhiteSpaceAndFoldsCase :
    (Char.ofNat 11).toNat ∈ [9, 10, 11, 12, 13, 32] ∧
      ('z', 'Z') ∈ List.zip lowerCaseLetters upperCaseLetters ∧
      ('?'.toNat ∉ [9, 10, 11, 12, 13, 32] ∧ '?' ∉ lowerCaseLetters) := by decide

theorem witness_FailedLoadLeavesMemoryUnchanged :
    hostLoad State.reset (.raw 27) ['A', '1', 'B'] = .raises (.loader .unknownSymbol) State.reset ∧
      hostLoad State.reset (.text ['Z']) [] = .raises (.decode .wrongLength) State.reset := by decide

theorem witness_OrderIsLexicographicOnTrits :
    lessThan (construct (-9841)) (construct 9841) = true ∧ lessThan (construct 1) (construct 1) = false := by decide

end Sys2Proof.Tests
end

