-- ==== Sys2Proof/Proofs/Storage.lean ====
section
/-! PROOFS. The array's slots (rule R21) and what they hold after reset (rule R30). -/

namespace Sys2Proof.Proofs.Storage

open Sys2Proof.Machine

/-- `construct (k - 9841)` is the address of the slot `k`: the bias of rule R21 undone. -/
theorem unbiased_construct_sub_bias {k : Nat} (hk : k < 19683) :
    unbiased (construct ((k : Int) - 9841)) = k := by
  have hraw : (construct ((k : Int) - 9841)).raw = (k : Int) - 9841 :=
    raw_norm_of_range (by omega) (by omega)
  have hslot := unbiased_cast (construct ((k : Int) - 9841))
  omega

/-- Settles O16: the reset memory lists no slot, and an unlisted slot holds zero. -/
theorem resetZeroesEveryCell : Obligations.ResetZeroesEveryCell := by
  intro a
  have hcell : cellAt State.reset.mem (unbiased a) = Tryte.zero := by rw [mem_reset, cellAt_nil]
  exact ⟨hcell, memRead_reset a⟩

/-- Settles O18: every slot of the array has the address `k - 9841`, and no other since `unbiased` is injective. -/
theorem slotsAreABijection : Obligations.SlotsAreABijection := by
  refine ⟨unbiased_cast, fun k => ⟨fun hk => ?_, ?_⟩⟩
  · have hslot := unbiased_construct_sub_bias hk
    exact ⟨construct ((k : Int) - 9841), hslot, fun b hb => unbiased_injective (hb.trans hslot.symm)⟩
  · rintro ⟨a, rfl, -⟩
    exact unbiased_lt a

end Sys2Proof.Proofs.Storage
end

