-- ==== Sys2Proof/Proofs/Encoding.lean ====
section
/-! PROOFS. The split of an instruction tryte into its three symbols (rule R60), and what the opcode map (rule R67)
keeps of each of them. -/

namespace Sys2Proof.Proofs.Encoding

open Sys2Proof.Machine

/-- Classifying a symbol forgets nothing: each marker is written with the symbol it is read from (rules R61, R71). -/
@[simp] theorem symbol_classify (s : Tribble) : (classify s).symbol = s := by
  unfold classify
  split
  · next hdiscard => exact hdiscard.symm
  · split
    · next hindirect => exact hindirect.symm
    · rfl

/-- Every row of the opcode map (rule R67) keeps the three symbols it is given, whatever the roles of the operands. -/
theorem ofSymbols_fields (op h l : Tribble) :
    (ofSymbols op h l).opcode = op ∧ (ofSymbols op h l).high = h ∧ (ofSymbols op h l).low = l := by
  fin_cases op <;> simp [ofSymbols, Instr.opcode, Instr.high, Instr.low]

@[simp] theorem opcode_decode (w : Tryte) : (decode w).opcode = sym2 w := by
  obtain ⟨hop, -, -⟩ := ofSymbols_fields (sym2 w) (sym1 w) (sym0 w)
  exact hop

@[simp] theorem high_decode (w : Tryte) : (decode w).high = sym1 w := by
  obtain ⟨-, hhigh, -⟩ := ofSymbols_fields (sym2 w) (sym1 w) (sym0 w)
  exact hhigh

@[simp] theorem low_decode (w : Tryte) : (decode w).low = sym0 w := by
  obtain ⟨-, -, hlow⟩ := ofSymbols_fields (sym2 w) (sym1 w) (sym0 w)
  exact hlow

/-- A tryte is built from its own three symbols: `unbiased w` is `729 (u / 729) + 27 (u / 27 % 27) + u % 27`. -/
theorem ofSyms_syms (w : Tryte) : ofSyms (sym2 w) (sym1 w) (sym0 w) = w := by
  apply unbiased_injective
  rw [unbiased_ofSyms, sym2_val, sym1_val, sym0_val]
  omega

theorem encode_decode (w : Tryte) : encode (decode w) = w := by
  rw [encode, opcode_decode, high_decode, low_decode, ofSyms_syms]

/-- The bias 9841 is `13 * 729 + 13 * 27 + 13`, which turns the positions of the three symbols into their digits. -/
theorem raw_encode (i : Instr) : (encode i).raw = 729 * dig i.opcode + 27 * dig i.high + dig i.low := by
  rw [encode, raw_ofSyms, dig, dig, dig]
  omega

/-- The leading symbol of a tryte is `p` exactly on the `p`-th block of 729 trytes. -/
theorem sym2_eq_iff (w : Tryte) (p : Tribble) :
    sym2 w = p ↔ 729 * (p.val : Int) - 9841 ≤ w.raw ∧ w.raw ≤ 729 * (p.val : Int) - 9841 + 728 := by
  have hslot := unbiased_cast w
  rw [Fin.ext_iff, sym2_val]
  omega

/-- Settles O25: the formula for `encode`, read on a tryte through `encode (decode w) = w`, and the block of its leading
symbol, which is the opcode of what it decodes to. -/
theorem opcodeOwnsItsRangeOfTrytes : Obligations.OpcodeOwnsItsRangeOfTrytes := by
  refine ⟨raw_encode, fun w => ?_, fun w p => ?_⟩
  · rw [← raw_encode, encode_decode]
  · rw [opcode_decode, sym2_eq_iff]

end Sys2Proof.Proofs.Encoding
end

/-! PROOFS. The numeral converter (rules R81 to R90): what `construct` gives, the uniqueness of balanced digits in an
odd base, and each text encoding as one equivalence, from which its two round trips follow. -/

namespace Sys2Proof.Proofs.Numeral

open Sys2Proof.Machine

/-! ## Construction -/

/-- A tryte is `norm n` exactly when it is congruent to `n`: the centered range holds one member of each class. -/
theorem eq_norm_iff (t : Tryte) (n : Int) : t = Tryte.norm n ↔ (t.raw - n) % 19683 = 0 := by
  have hl := t.lower
  have hu := t.upper
  rw [Tryte.ext_iff, raw_norm]
  omega

theorem norm_add_period (n k : Int) : Tryte.norm (n + 19683 * k) = Tryte.norm n := by
  rw [eq_norm_iff, raw_norm]
  omega

/-- Settles O1: the four clauses are laws of `norm`, which is what `construct` is. -/
theorem constructIsTheCenteredRepresentative : Obligations.ConstructIsTheCenteredRepresentative :=
  fun n => ⟨raw_norm n, fun t => eq_norm_iff t n, norm_raw, norm_add_period n⟩

/-! ## Balanced digits

A digit of the odd base `2 m + 1` is balanced when it lies in `[-m, m]`. The symbols' digits are balanced for `m = 13`,
the trits for `m = 1`. -/

/-- The digits of `ds` lie in `[-m, m]`. -/
def Balanced (m : Int) (ds : List Int) : Prop := ∀ d ∈ ds, -m ≤ d ∧ d ≤ m

theorem balanced_append_singleton {m : Int} {ds : List Int} {d : Int} :
    Balanced m (ds ++ [d]) ↔ Balanced m ds ∧ -m ≤ d ∧ d ≤ m := by
  rw [Balanced, List.forall_mem_append, List.forall_mem_singleton, Balanced]

theorem balanced_map_dig (ps : List Tribble) : Balanced 13 (ps.map dig) := by
  intro d hd
  obtain ⟨p, -, rfl⟩ := List.mem_map.mp hd
  have hp := p.isLt
  unfold dig
  omega

theorem balanced_map_toInt (xs : List Trit) : Balanced 1 (xs.map Trit.toInt) := by
  intro d hd
  obtain ⟨x, -, rfl⟩ := List.mem_map.mp hd
  exact toInt_range x

theorem positional_append_singleton (base : Int) (ds : List Int) (d : Int) :
    positional base (ds ++ [d]) = base * positional base ds + d := by
  simp [positional]

/-- `n` balanced digits spell a value whose double is below `(2 m + 1) ^ n` on both sides. -/
theorem positional_bound {m : Int} {ds : List Int} (hm : 0 ≤ m) (hds : Balanced m ds) :
    |2 * positional (2 * m + 1) ds| < (2 * m + 1) ^ ds.length := by
  induction ds using List.reverseRecOn with
  | nil => simp [positional]
  | append_singleton ds d ih =>
    obtain ⟨hinit, hdl, hdu⟩ := balanced_append_singleton.mp hds
    have hlt := abs_lt.mp (ih hinit)
    rw [positional_append_singleton, List.length_append, List.length_singleton, pow_succ, abs_lt]
    constructor <;> nlinarith

/-- Balanced digits with as many values as there are trytes need no wrapping. -/
theorem eq_norm_positional_iff {m : Int} {ds : List Int} (hm : 0 ≤ m) (hds : Balanced m ds)
    (hcard : (2 * m + 1) ^ ds.length = 19683) (t : Tryte) :
    t = Tryte.norm (positional (2 * m + 1) ds) ↔ t.raw = positional (2 * m + 1) ds := by
  have hbound := abs_lt.mp (hcard ▸ positional_bound hm hds)
  rw [Tryte.ext_iff, raw_norm_of_range (by omega) (by omega)]

/-- Balanced digits are unique: the last one is the residue of the value modulo `2 m + 1`, so values agree digit by
digit from the right. -/
theorem positional_injective {m : Int} {ds es : List Int} (hds : Balanced m ds)
    (hes : Balanced m es) (hlen : ds.length = es.length)
    (h : positional (2 * m + 1) ds = positional (2 * m + 1) es) : ds = es := by
  induction ds using List.reverseRecOn generalizing es with
  | nil => exact (List.length_eq_zero_iff.mp hlen.symm).symm
  | append_singleton ds d ih =>
    obtain rfl | ⟨es, e, rfl⟩ := es.eq_nil_or_concat'
    · simp at hlen
    · obtain ⟨hdinit, hdl, hdu⟩ := balanced_append_singleton.mp hds
      obtain ⟨heinit, hel, heu⟩ := balanced_append_singleton.mp hes
      rw [positional_append_singleton, positional_append_singleton] at h
      have hlast : d = e := by
        have hdvd : 2 * m + 1 ∣ d - e :=
          ⟨positional (2 * m + 1) es - positional (2 * m + 1) ds, by linarith⟩
        have hzero := Int.eq_zero_of_abs_lt_dvd hdvd (abs_lt.mpr ⟨by linarith, by linarith⟩)
        linarith
      subst hlast
      have hinit : ds = es := by
        refine ih hdinit heinit (by simpa using hlen) ?_
        exact mul_left_cancel₀ (show 2 * m + 1 ≠ 0 by omega) (by linarith)
      rw [hinit]

/-! ## The digits of a tryte -/

theorem dig_injective : Function.Injective dig := by
  intro p q h
  unfold dig at h
  exact Fin.ext (by omega)

/-- R83: the signed digits of the three symbols spell the value in base 27. -/
theorem positional_tribbleString (t : Tryte) : positional 27 ((tribbleString t).map dig) = t.raw := by
  have hslot := unbiased_cast t
  simp only [positional, tribbleString, List.map_cons, List.map_nil, List.foldl_cons, List.foldl_nil, dig, sym2_val,
    sym1_val, sym0_val]
  omega

/-- One step of the base-3 value: when `c` is the bias of the trits above place `i`, `3 c + 1` is the bias with it. -/
theorem three_mul_add_trit (t : Tryte) (i : Nat) (c : Int) :
    3 * (((unbiased t / 3 ^ (i + 1) : Nat) : Int) - c) + (trit t i).toInt =
      ((unbiased t / 3 ^ i : Nat) : Int) - (3 * c + 1) := by
  rw [toInt_trit, pow_succ, ← Nat.div_div_eq_div_mul]
  omega

/-- R86: the nine trits spell the value in base 3. -/
theorem positional_tritString (t : Tryte) : positional 3 ((tritString t).map Trit.toInt) = t.raw := by
  have hslot := unbiased_cast t
  have htop : (0 : Int) = ((unbiased t / 3 ^ (8 + 1) : Nat) : Int) - 0 := by
    rw [Nat.div_eq_of_lt (show unbiased t < 3 ^ (8 + 1) from unbiased_lt t)]
    rfl
  simp only [positional, tritString, List.map_cons, List.map_nil, List.foldl_cons, List.foldl_nil]
  rw [htop]
  simp only [three_mul_add_trit, pow_zero, Nat.div_one]
  omega

/-- The tribble string of a tryte is the one list of three symbols whose digits spell its value. -/
theorem tribbleString_eq_iff (t : Tryte) {ps : List Tribble} (hlen : ps.length = 3) :
    tribbleString t = ps ↔ t.raw = positional 27 (ps.map dig) := by
  rw [← positional_tribbleString]
  refine ⟨fun h => h ▸ rfl, fun h => dig_injective.list_map ?_⟩
  exact positional_injective (balanced_map_dig _) (balanced_map_dig _) (by simp [tribbleString, hlen]) h

/-- The trit string of a tryte is the one list of nine trits that spells its value. -/
theorem tritString_eq_iff (t : Tryte) {xs : List Trit} (hlen : xs.length = 9) :
    tritString t = xs ↔ t.raw = positional 3 (xs.map Trit.toInt) := by
  rw [← positional_tritString]
  refine ⟨fun h => h ▸ rfl, fun h => List.map_injective_iff.mpr (fun _ _ => toInt_injective) ?_⟩
  exact positional_injective (balanced_map_toInt _) (balanced_map_toInt _) (by simp [tritString, hlen]) h

theorem tribbleString_eq_iff_eq_norm (t : Tryte) {ps : List Tribble} (hlen : ps.length = 3) :
    tribbleString t = ps ↔ t = Tryte.norm (positional 27 (ps.map dig)) :=
  (tribbleString_eq_iff t hlen).trans
    (eq_norm_positional_iff (m := 13) (by decide) (balanced_map_dig ps) (by simp [hlen]) t).symm

theorem tritString_eq_iff_eq_norm (t : Tryte) {xs : List Trit} (hlen : xs.length = 9) :
    tritString t = xs ↔ t = Tryte.norm (positional 3 (xs.map Trit.toInt)) :=
  (tritString_eq_iff t hlen).trans
    (eq_norm_positional_iff (m := 1) (by decide) (balanced_map_toInt xs) (by simp [hlen]) t).symm

/-- Settles O3: the uniqueness of the digits, for three symbols written out. -/
theorem tribbleDigitsSpellTheValueUniquely : Obligations.TribbleDigitsSpellTheValueUniquely := by
  intro t p2 p1 p0
  have hvalue : positional 27 ([p2, p1, p0].map dig) = 729 * dig p2 + 27 * dig p1 + dig p0 := by
    simp only [positional, List.map_cons, List.map_nil, List.foldl_cons, List.foldl_nil]
    ring
  rw [tribbleString_eq_iff t rfl, hvalue]

/-! ## The characters -/

/-- The place found in an alphabet holds the character looked for. -/
theorem getElem?_of_indexIn {c : Char} {cs : List Char} {k : Nat} (h : indexIn c cs = some k) : cs[k]? = some c := by
  induction cs generalizing k with
  | nil => simp [indexIn] at h
  | cons d ds ih =>
    unfold indexIn at h
    split at h
    · next hc =>
      cases h
      simp [hc]
    · obtain ⟨j, hj, rfl⟩ := Option.map_eq_some_iff.mp h
      simpa using ih hj

/-- R93: the characters of the symbols are pairwise distinct, so each is read back as its symbol. -/
theorem symOfChar_symChar (p : Tribble) : symOfChar (symChar p) = some p := by
  revert p; decide

theorem symOfChar_eq_some_iff (c : Char) (p : Tribble) : symOfChar c = some p ↔ c = symChar p := by
  refine ⟨fun h => ?_, fun h => h ▸ symOfChar_symChar p⟩
  unfold symOfChar at h
  split at h
  · next k hk =>
    split at h
    · cases h
      rw [symChar, List.getD_eq_getElem?_getD, getElem?_of_indexIn hk, Option.getD_some]
    · cases h
  · cases h

/-- R86, R87: the character of each trit is read back as that trit. -/
theorem tritOfChar_tritChar (x : Trit) : tritOfChar (tritChar x) = some x := by
  cases x <;> decide

theorem tritOfChar_eq_some_iff (c : Char) (x : Trit) : tritOfChar c = some x ↔ c = tritChar x := by
  refine ⟨fun h => ?_, fun h => h ▸ tritOfChar_tritChar x⟩
  unfold tritOfChar at h
  split at h
  case h_4 => cases h
  all_goals
    next hk =>
    cases h
    rw [tritChar, List.getD_eq_getElem?_getD, rawOfTrit, getElem?_of_indexIn hk, Option.getD_some]

/-! ## The shared form of the conversions -/

/-- A conversion of a nonempty input succeeds when its first element converts and the rest does. -/
theorem convertAll_cons_eq_ok_iff {α β : Type} (f : α → Option β) (position : Nat) (x : α) (xs : List α)
    (ys : List β) :
    convertAll f position (x :: xs) = .ok ys ↔
      ∃ y zs, f x = some y ∧ convertAll f (position + 1) xs = .ok zs ∧ ys = y :: zs := by
  rw [convertAll]
  cases f x with
  | none => simp
  | some y =>
    cases convertAll f (position + 1) xs with
    | error e => simp
    | ok zs => simp [eq_comm]

/-- When `enc s` is what converts to `val s` and nothing else converts, an input converts exactly when it is a list of
encodings, and to the values of what it encodes. -/
theorem convertAll_eq_ok_iff {α β σ : Type} {f : α → Option β} {enc : σ → α} {val : σ → β}
    (hf : ∀ x y, f x = some y ↔ ∃ s, x = enc s ∧ y = val s) (position : Nat) (xs : List α) (ys : List β) :
    convertAll f position xs = .ok ys ↔ ∃ ss : List σ, xs = ss.map enc ∧ ys = ss.map val := by
  induction xs generalizing position ys with
  | nil => simp [convertAll, eq_comm]
  | cons x xs ih =>
    rw [convertAll_cons_eq_ok_iff]
    constructor
    · rintro ⟨y, zs, hx, hxs, rfl⟩
      obtain ⟨s, rfl, rfl⟩ := (hf x y).mp hx
      obtain ⟨ss, rfl, rfl⟩ := (ih (position + 1) zs).mp hxs
      exact ⟨s :: ss, rfl, rfl⟩
    · rintro ⟨ss, hxs, rfl⟩
      obtain ⟨s, ss, rfl, rfl, rfl⟩ := List.map_eq_cons_iff.mp hxs.symm
      exact ⟨val s, ss.map val, (hf _ _).mpr ⟨s, rfl, rfl⟩, (ih _ _).mpr ⟨ss, rfl, rfl⟩, rfl⟩

/-- R92: a conversion gives a tryte exactly when the input encodes `len` symbols, and the tryte is their value. -/
theorem convertDigits_eq_ok_iff {α σ : Type} {f : α → Option Int} {enc : σ → α} {val : σ → Int}
    (hf : ∀ x y, f x = some y ↔ ∃ s, x = enc s ∧ y = val s) (len : Nat) (base : Int) (xs : List α) (t : Tryte) :
    convertDigits len base f xs = .ok t ↔
      ∃ ss : List σ, ss.length = len ∧ xs = ss.map enc ∧ t = Tryte.norm (positional base (ss.map val)) := by
  unfold convertDigits
  constructor
  · intro h
    split at h
    · next hlen =>
      split at h
      · next ds hds =>
        obtain ⟨ss, rfl, rfl⟩ := (convertAll_eq_ok_iff hf 0 xs ds).mp hds
        cases h
        exact ⟨ss, by simpa using hlen, rfl, rfl⟩
      · cases h
    · cases h
  · rintro ⟨ss, rfl, rfl, rfl⟩
    rw [if_pos (List.length_map _), (convertAll_eq_ok_iff hf 0 _ _).mpr ⟨ss, rfl, rfl⟩]

/-- A digit read off a decoded symbol, in the form `convertAll_eq_ok_iff` asks for. -/
theorem map_eq_some_iff_exists_enc {α β σ : Type} {dec : α → Option σ} {enc : σ → α} (val : σ → β)
    (hdec : ∀ x s, dec x = some s ↔ x = enc s) (x : α) (y : β) :
    (dec x).map val = some y ↔ ∃ s, x = enc s ∧ y = val s := by
  simp only [Option.map_eq_some_iff, hdec, eq_comm]

/-- A conversion whose accepted digits are those `str` spells accepts exactly the encodings of these strings, and each
as the tryte it is the string of. -/
theorem convertDigits_eq_ok_iff_eq_map {α σ : Type} {f : α → Option Int} {enc : σ → α} {val : σ → Int} {len : Nat}
    {base : Int} {str : Tryte → List σ} (hf : ∀ x y, f x = some y ↔ ∃ s, x = enc s ∧ y = val s)
    (hlen : ∀ t, (str t).length = len)
    (hstr : ∀ t ss, ss.length = len → (str t = ss ↔ t = Tryte.norm (positional base (ss.map val))))
    (xs : List α) (t : Tryte) : convertDigits len base f xs = .ok t ↔ xs = (str t).map enc := by
  rw [convertDigits_eq_ok_iff hf]
  constructor
  · rintro ⟨ss, hss, rfl, ht⟩
    rw [(hstr t ss hss).mpr ht]
  · rintro rfl
    exact ⟨str t, hlen t, rfl, (hstr t _ (hlen t)).mp rfl⟩

/-! ## The round trips -/

/-- R84: `fromTribbles` accepts exactly the tribble texts, and each as the tryte it is the text of. -/
theorem fromTribbles_eq_ok_iff (s : List Char) (t : Tryte) : fromTribbles s = .ok t ↔ s = tribbleText t :=
  convertDigits_eq_ok_iff_eq_map (str := tribbleString) (map_eq_some_iff_exists_enc dig symOfChar_eq_some_iff)
    (fun _ => rfl) (fun t _ hlen => tribbleString_eq_iff_eq_norm t hlen) s t

/-- R87: `fromTrits` accepts exactly the trit texts, and each as the tryte it is the text of. -/
theorem fromTrits_eq_ok_iff (s : List Char) (t : Tryte) : fromTrits s = .ok t ↔ s = tritText t :=
  convertDigits_eq_ok_iff_eq_map (str := tritString) (map_eq_some_iff_exists_enc Trit.toInt tritOfChar_eq_some_iff)
    (fun _ => rfl) (fun t _ hlen => tritString_eq_iff_eq_norm t hlen) s t

/-- Settles O2: both directions of each round trip are the equivalences above. -/
theorem threeEncodingsRoundTrip : Obligations.ThreeEncodingsRoundTrip :=
  ⟨fun _ hl hu =>
      ⟨raw_norm_of_range hl hu, (fromTribbles_eq_ok_iff _ _).mpr rfl, (fromTrits_eq_ok_iff _ _).mpr rfl⟩,
    fun s t h => ((fromTribbles_eq_ok_iff s t).mp h).symm, fun s t h => ((fromTrits_eq_ok_iff s t).mp h).symm⟩

end Sys2Proof.Proofs.Numeral

/-! PROOFS. The Tryte unit's arithmetic (rules R100 to R102): operations on the true integers, wrapped. -/

namespace Sys2Proof.Proofs.Arithmetic

open Sys2Proof.Machine

theorem raw_add (a b : Tryte) : (add a b).raw = (a.raw + b.raw + 9841) % 19683 - 9841 := rfl

theorem raw_sub (a b : Tryte) : (sub a b).raw = (a.raw - b.raw + 9841) % 19683 - 9841 := rfl

theorem raw_mul (a b : Tryte) : (mul a b).raw = (a.raw * b.raw + 9841) % 19683 - 9841 := rfl

/-- R100: the true sum lies in `[-19682, 19682]`, so one addition or subtraction of the modulus brings it back. -/
theorem raw_add_wraps_once (a b : Tryte) :
    (add a b).raw = a.raw + b.raw ∨ (add a b).raw = a.raw + b.raw + 19683 ∨
      (add a b).raw = a.raw + b.raw - 19683 := by
  have hal := a.lower
  have hau := a.upper
  have hbl := b.lower
  have hbu := b.upper
  rw [raw_add]
  omega

theorem tryte_add_comm (a b : Tryte) : add a b = add b a := congrArg Tryte.norm (Int.add_comm a.raw b.raw)

theorem tryte_mul_comm (a b : Tryte) : mul a b = mul b a := congrArg Tryte.norm (Int.mul_comm a.raw b.raw)

/-- Wrapping the inner sum changes it by a multiple of the modulus, which the outer wrap forgets. -/
theorem tryte_add_assoc (a b c : Tryte) : add (add a b) c = add a (add b c) := by
  apply Tryte.ext
  simp only [raw_add]
  omega

theorem add_zero_tryte (a : Tryte) : add a Tryte.zero = a := by
  rw [add, raw_zero, Int.add_zero, norm_raw]

theorem sub_self_tryte (a : Tryte) : sub a a = Tryte.zero := by
  rw [sub, Int.sub_self, ← raw_zero, norm_raw]

theorem sub_zero_tryte (a : Tryte) : sub a Tryte.zero = a := by
  rw [sub, raw_zero, Int.sub_zero, norm_raw]

theorem mul_zero_tryte (a : Tryte) : mul a Tryte.zero = Tryte.zero := by
  rw [mul, raw_zero, Int.mul_zero, ← raw_zero, norm_raw]

theorem mul_one_tryte (a : Tryte) : mul a (construct 1) = a := by
  have hone : (construct 1).raw = 1 := rfl
  rw [mul, hone, Int.mul_one, norm_raw]

/-- The centered range is symmetric, so a negation never wraps. -/
theorem raw_norm_neg_raw (a : Tryte) : (Tryte.norm (-a.raw)).raw = -a.raw :=
  raw_norm_of_range (neg_le_neg a.upper) (neg_le.mp a.lower)

theorem raw_zero_sub (a : Tryte) : (sub Tryte.zero a).raw = -a.raw := by
  rw [sub, raw_zero, Int.zero_sub, raw_norm_neg_raw]

theorem raw_mul_neg_one (a : Tryte) : (mul a (construct (-1))).raw = -a.raw := by
  have hneg : (construct (-1)).raw = -1 := rfl
  rw [mul, hneg, Int.mul_neg_one, raw_norm_neg_raw]

/-- Settles O9: the wrapped results, and the laws of each operation above. -/
theorem arithmeticWrapsSilently : Obligations.ArithmeticWrapsSilently :=
  ⟨fun a b => ⟨raw_add a b, raw_sub a b, raw_mul a b, raw_add_wraps_once a b, tryte_add_comm a b,
      tryte_mul_comm a b⟩,
    tryte_add_assoc,
    fun a => ⟨add_zero_tryte a, sub_self_tryte a, sub_zero_tryte a, raw_zero_sub a, mul_zero_tryte a,
      mul_one_tryte a, raw_mul_neg_one a⟩⟩

end Sys2Proof.Proofs.Arithmetic

/-! PROOFS. The Tryte unit's tritwise logic (rules R104, R105): what a tritwise operation gives at each place, and that
a tryte is determined by its trits, so that each law of a trit function is a law of its tritwise operation. -/

namespace Sys2Proof.Proofs.TritwiseLogic

open Sys2Proof.Machine Sys2Proof.Proofs.Numeral

/-! ## Places -/

/-- Two trit strings given place by place are equal exactly when they agree at each of the nine places. -/
theorem map_places_eq_iff {x y : Nat → Trit} :
    [8, 7, 6, 5, 4, 3, 2, 1, 0].map x = [8, 7, 6, 5, 4, 3, 2, 1, 0].map y ↔ ∀ i, i < 9 → x i = y i := by
  have hplace : ∀ i : Nat, i ∈ [8, 7, 6, 5, 4, 3, 2, 1, 0] ↔ i < 9 := by
    intro i
    simp only [List.mem_cons, List.not_mem_nil, or_false]
    omega
  simp only [List.map_inj_left, hplace]

/-- A tryte is determined by its nine trits. -/
theorem eq_of_trit_eq {a b : Tryte} (h : ∀ i, i < 9 → trit a i = trit b i) : a = b := by
  have hstring : tritString a = tritString b := map_places_eq_iff.mpr h
  apply Tryte.ext
  rw [← positional_tritString a, hstring, positional_tritString]

/-- R104: reassembled and read again, the trits of a tritwise operation are those that were computed. -/
theorem tritString_tritwise (f : Trit → Trit → Trit) (a b : Tryte) :
    tritString (tritwise f a b) = List.zipWith f (tritString a) (tritString b) :=
  (tritString_eq_iff_eq_norm _ rfl).mpr rfl

/-- R104: a tritwise operation applies its trit function at each place. -/
theorem trit_tritwise (f : Trit → Trit → Trit) (a b : Tryte) {i : Nat} (hi : i < 9) :
    trit (tritwise f a b) i = f (trit a i) (trit b i) :=
  (map_places_eq_iff (x := trit (tritwise f a b)) (y := fun j => f (trit a j) (trit b j))).mp
    (tritString_tritwise f a b) i hi

/-! ## Laws of a trit function carry over to trytes -/

theorem tritwise_comm {f : Trit → Trit → Trit} (hf : ∀ x y, f x y = f y x) (a b : Tryte) :
    tritwise f a b = tritwise f b a :=
  eq_of_trit_eq fun i hi => by rw [trit_tritwise f a b hi, trit_tritwise f b a hi, hf]

theorem tritwise_self {f : Trit → Trit → Trit} (hf : ∀ x, f x x = x) (a : Tryte) : tritwise f a a = a :=
  eq_of_trit_eq fun i hi => by rw [trit_tritwise f a a hi, hf]

/-- A tryte whose trits are all `e` is a right identity when `e` is one for trits. -/
theorem tritwise_eq_left {f : Trit → Trit → Trit} {e : Trit} {b : Tryte} (hf : ∀ x, f x e = x)
    (hb : ∀ i, i < 9 → trit b i = e) (a : Tryte) : tritwise f a b = a :=
  eq_of_trit_eq fun i hi => by rw [trit_tritwise f a b hi, hb i hi, hf]

/-- A tryte whose trits are all `e` absorbs from the right when `e` does so for trits. -/
theorem tritwise_eq_right {f : Trit → Trit → Trit} {e : Trit} {b : Tryte} (hf : ∀ x, f x e = e)
    (hb : ∀ i, i < 9 → trit b i = e) (a : Tryte) : tritwise f a b = b :=
  eq_of_trit_eq fun i hi => by rw [trit_tritwise f a b hi, hb i hi, hf]

/-! ## Minimum and maximum of trits -/

@[simp] theorem toInt_minTrit (x y : Trit) : (minTrit x y).toInt = min x.toInt y.toInt := by
  unfold minTrit
  split
  · next hle => rw [min_eq_left hle]
  · next hgt => rw [min_eq_right (le_of_not_ge hgt)]

@[simp] theorem toInt_maxTrit (x y : Trit) : (maxTrit x y).toInt = max x.toInt y.toInt := by
  unfold maxTrit
  split
  · next hle => rw [max_eq_right hle]
  · next hgt => rw [max_eq_left (le_of_not_ge hgt)]

theorem minTrit_comm (x y : Trit) : minTrit x y = minTrit y x :=
  toInt_injective (by rw [toInt_minTrit, toInt_minTrit, min_comm])

theorem maxTrit_comm (x y : Trit) : maxTrit x y = maxTrit y x :=
  toInt_injective (by rw [toInt_maxTrit, toInt_maxTrit, max_comm])

theorem minTrit_self (x : Trit) : minTrit x x = x := toInt_injective (by rw [toInt_minTrit, min_self])

theorem maxTrit_self (x : Trit) : maxTrit x x = x := toInt_injective (by rw [toInt_maxTrit, max_self])

/-- `+1` is the largest trit. -/
theorem minTrit_pos (x : Trit) : minTrit x .pos = x :=
  toInt_injective ((toInt_minTrit x .pos).trans (min_eq_left (toInt_range x).2))

/-- `-1` is the smallest trit. -/
theorem minTrit_neg (x : Trit) : minTrit x .neg = .neg :=
  toInt_injective ((toInt_minTrit x .neg).trans (min_eq_right (toInt_range x).1))

/-! ## The extreme trytes -/

/-- The largest tryte has the trit `+1` at every place. -/
theorem trit_construct_9841 : ∀ i, i < 9 → trit (construct 9841) i = .pos := by decide

/-- The smallest tryte has the trit `-1` at every place. -/
theorem trit_construct_neg_9841 : ∀ i, i < 9 → trit (construct (-9841)) i = .neg := by decide

/-! ## AND and OR -/

theorem toInt_trit_and (a b : Tryte) {i : Nat} (hi : i < 9) :
    (trit (and_ a b) i).toInt = min (trit a i).toInt (trit b i).toInt := by
  rw [and_, trit_tritwise minTrit a b hi, toInt_minTrit]

theorem toInt_trit_or (a b : Tryte) {i : Nat} (hi : i < 9) :
    (trit (or_ a b) i).toInt = max (trit a i).toInt (trit b i).toInt := by
  rw [or_, trit_tritwise maxTrit a b hi, toInt_maxTrit]

/-- Settles O11: minimum and maximum at each place, and the laws of `minTrit` and `maxTrit` carried to trytes. -/
theorem tritwiseAndIsMinAndOrIsMax : Obligations.TritwiseAndIsMinAndOrIsMax :=
  fun a b => ⟨fun _ hi => toInt_trit_and a b hi, fun _ hi => toInt_trit_or a b hi, tritwise_comm minTrit_comm a b,
    tritwise_comm maxTrit_comm a b, tritwise_self minTrit_self a, tritwise_self maxTrit_self a,
    tritwise_eq_left minTrit_pos trit_construct_9841 a,
    tritwise_eq_right minTrit_neg trit_construct_neg_9841 a⟩

end Sys2Proof.Proofs.TritwiseLogic

/-! PROOFS. Operand decoding and the step (rules R120, R124, R129, R131): a fetch moves only the program counter, and a
step completes or raises according to the opcode symbol it fetched. -/

namespace Sys2Proof.Proofs.Stepping

open Sys2Proof.Machine Sys2Proof.Proofs.Encoding

/-! ## The moves of the counter -/

theorem onlyMovesPc_setPc (s : State) (t : Tryte) : OnlyMovesPc s (setPc s t) t := by
  refine ⟨pc_setPc s t, fun a ha => ?_⟩
  have hne : a ≠ pcAddr := by simpa using ha
  rw [memRead_setPc, if_neg hne]

theorem onlyMovesPc_fetch (s : State) : OnlyMovesPc s (fetch s).2 (offsetBy (pc s) 1) :=
  onlyMovesPc_setPc s _

/-! ## Destination operands -/

@[simp] theorem raw_addrOf (r : Tribble) : (addrOf r).raw = dig r := rfl

/-- Settles O28: the three classes of `decodeDst`; the last one is a fetch. -/
theorem destinationOperandForms : Obligations.DestinationOperandForms := by
  intro s r
  refine ⟨?direct, decodeDst_discard s, ?indirect⟩
  case direct =>
    rw [decodeDst_direct]
    exact ⟨raw_addrOf r, rfl⟩
  case indirect =>
    rw [decodeDst_indirect]
    exact ⟨(fetch_spec s).1, onlyMovesPc_fetch s⟩

/-! ## Completing and raising -/

/-- Everything the dispatch can answer: an instruction completes, unless its opcode symbol is one of the six of rule
R183, which raise in the state they are given. -/
theorem exec_cases (i : Instr) (s : State) :
    (i.opcode ∉ [(5 : Tribble), 13, 17, 22, 25, 26] ∧ ∃ t, exec i s = .next t) ∨
      (i.opcode ∈ [(5 : Tribble), 13, 17, 22, 25, 26] ∧ exec i s = raiseUnimplemented i.opcode s) := by
  cases i with
  | unimpF | unimp0 | unimpQ | unimpV | unimpY | unimpZ => exact .inr ⟨by simp [Instr.opcode], rfl⟩
  | _ => exact .inl ⟨by simp [Instr.opcode], _, rfl⟩

/-- Only the divide symbol, position 3, can be withheld by a configuration (rules R67, R160). -/
theorem offered_iff (hasDiv : Bool) (i : Instr) : i.offered hasDiv = true ↔ (i.opcode = 3 → hasDiv = true) := by
  cases i <;> simp [Instr.offered, Instr.opcode]

/-- Everything the decoded instruction can answer: it completes where its opcode symbol is assigned and raises where it
is not. Two things leave a symbol unassigned: the six of rule R183, and a divide that is not offered. -/
theorem runDecoded_cases (hasDiv : Bool) (i : Instr) (s : State) :
    (AssignedOpcode hasDiv i.opcode ∧ ∃ t, runDecoded hasDiv i s = .next t) ∨
      (¬ AssignedOpcode hasDiv i.opcode ∧ runDecoded hasDiv i s = raiseUnimplemented i.opcode s) := by
  cases hoff : i.offered hasDiv with
  | true =>
    rw [runDecoded_offered s hoff]
    obtain ⟨hop, hnext⟩ | ⟨hop, hraise⟩ := exec_cases i s
    · exact .inl ⟨⟨hop, (offered_iff hasDiv i).mp hoff⟩, hnext⟩
    · exact .inr ⟨fun ⟨hassigned, _⟩ => hassigned hop, hraise⟩
  | false =>
    have hdiv : ¬ (i.opcode = 3 → hasDiv = true) := by simp [← offered_iff, hoff]
    exact .inr ⟨fun ⟨_, hoffered⟩ => hdiv hoffered, runDecoded_not_offered s hoff⟩

/-- Everything a step can answer (rule R120), in terms of the opcode symbol of the tryte at the counter. -/
theorem stepWith_cases (hasDiv : Bool) (s : State) :
    (AssignedOpcode hasDiv (sym2 (memRead s (pc s))) ∧ ∃ t, stepWith hasDiv s = .next t) ∨
      (¬ AssignedOpcode hasDiv (sym2 (memRead s (pc s))) ∧
        stepWith hasDiv s =
          .fault (.unimplementedOpcode (sym2 (memRead s (pc s))) (setPc s (offsetBy (pc s) 1)))) := by
  have hrun := runDecoded_cases hasDiv (decode (memRead s (pc s))) (setPc s (offsetBy (pc s) 1))
  rwa [← stepWith_eq, opcode_decode] at hrun

/-- Settles O33: the two cases of a step; the state a raising step leaves is the one after the instruction fetch. -/
theorem unassignedOpcodeRaisesAndAdvancesOnce : Obligations.UnassignedOpcodeRaisesAndAdvancesOnce := by
  intro hasDiv s
  obtain ⟨hassigned, hnext⟩ | ⟨hunassigned, hraise⟩ := stepWith_cases hasDiv s
  · exact ⟨fun hunassigned => absurd hassigned hunassigned, fun _ => hnext⟩
  · exact ⟨fun _ => ⟨_, hraise, onlyMovesPc_setPc s _⟩, fun hassigned => absurd hassigned hunassigned⟩

/-- Settles O32: each of the two cases of a step is one of the two outcomes allowed. -/
theorem everyStepCompletesOrRaises : Obligations.EveryStepCompletesOrRaises := by
  intro s
  obtain ⟨_, hnext⟩ | ⟨_, hraise⟩ := stepWith_cases Config.hasDiv s
  · exact .inl hnext
  · exact .inr ⟨_, hraise⟩

end Sys2Proof.Proofs.Stepping

/-! PROOFS. The binary value operations that compute from their two inputs (rules R150 to R156): the operands move only
the program counter, the store writes only the destination, and each instruction is named by the function it stores. -/

namespace Sys2Proof.Proofs.BinaryValue

open Sys2Proof.Machine Sys2Proof.Proofs.TritwiseLogic

/-! ## What the operands and the store change -/

theorem onlyMovesPc_trans {s t u : State} {p q : Tryte} (hst : OnlyMovesPc s t p) (htu : OnlyMovesPc t u q) :
    OnlyMovesPc s u q := by
  obtain ⟨-, hcells⟩ := hst
  obtain ⟨hpc, hcells'⟩ := htu
  exact ⟨hpc, fun a ha => (hcells' a ha).trans (hcells a ha)⟩

theorem onlyMovesPc_decodeVal (o : Operand) (s : State) :
    OnlyMovesPc s (decodeVal o s).2 (offsetBy (pc s) o.valExt) :=
  ⟨pc_decodeVal o s, fun _ ha => memRead_decodeVal_other o s (List.ne_of_not_mem_cons ha)⟩

/-- The decode sequence of the family (rule R150) only fetches: the counter passes the extension trytes of both
operands, one for each that is not direct (D10, log entry 6). -/
theorem onlyMovesPc_binaryOperands (h l : Operand) (s : State) :
    OnlyMovesPc s (binaryOperands h l s).after (offsetBy (pc s) (h.valExt + l.valExt : Nat)) := by
  rw [binaryOperands_after, Nat.cast_add, ← offsetBy_offsetBy, ← pc_decodeVal h s]
  exact onlyMovesPc_trans (onlyMovesPc_decodeVal h s) (onlyMovesPc_decodeVal l _)

/-- One store after the counter has passed `n` trytes, whichever cell it goes to: an ordinary one, the counter's own,
or the zero register's, where it is dropped (D19). -/
theorem storesAt_memWrite {s u : State} {n : Nat} (hmoved : OnlyMovesPc s u (offsetBy (pc s) n)) (d v : Tryte) :
    StoresAt s (memWrite u d v) d v n := by
  obtain ⟨hpc, hcells⟩ := hmoved
  refine ⟨?stored, fun hd => ?counter, fun a ha => ?others⟩
  case stored =>
    by_cases hzero : d = zeroAddr
    · rw [if_pos hzero, hzero, memRead_zeroAddr]
    · rw [if_neg hzero, memRead_memWrite_same u v hzero]
  case counter => exact (memRead_memWrite_other u v hd.symm).trans hpc
  case others =>
    obtain ⟨hapc, had⟩ : a ∉ [pcAddr] ∧ a ≠ d := by simpa using ha
    rw [memRead_memWrite_other u v had, hcells a hapc]

/-- Every instruction over `binaryStore` completes and stores its function of the two inputs at the destination. -/
theorem exec_storesAt_of_eq_binaryStore {i : Instr} {f : Tryte → Tryte → Tryte} {h l : Operand} {s : State}
    (hexec : exec i s = binaryStore f h l s) :
    ∃ t, exec i s = .next t ∧
      StoresAt s t (binaryOperands h l s).dst (f (binaryOperands h l s).first (binaryOperands h l s).second)
        (h.valExt + l.valExt) :=
  ⟨_, hexec.trans (binaryStore_next f h l s), storesAt_memWrite (onlyMovesPc_binaryOperands h l s) _ _⟩

/-! ## The function each instruction stores -/

theorem exec_mov (h l : Operand) (s : State) : exec (.mov h l) s = binaryStore (fun _ b => b) h l s := rfl

theorem exec_add (h l : Operand) (s : State) :
    exec (.add h l) s = binaryStore (fun a b => construct (a.raw + b.raw)) h l s := rfl

theorem exec_sub (h l : Operand) (s : State) :
    exec (.sub h l) s = binaryStore (fun a b => construct (a.raw - b.raw)) h l s := rfl

theorem exec_mul (h l : Operand) (s : State) :
    exec (.mul h l) s = binaryStore (fun a b => construct (a.raw * b.raw)) h l s := rfl

theorem exec_and (h l : Operand) (s : State) : exec (.and h l) s = binaryStore and_ h l s := rfl

theorem exec_orr (h l : Operand) (s : State) : exec (.orr h l) s = binaryStore or_ h l s := rfl

/-! ## The statements -/

/-- Settles O41: the stored function is the second input. -/
theorem movStoresTheLowValue : Obligations.MovStoresTheLowValue :=
  fun h l s => exec_storesAt_of_eq_binaryStore (exec_mov h l s)

/-- Settles O42: the stored functions are `construct` of the true sum, difference and product. -/
theorem addSubMulStoreTheWrappedResult : Obligations.AddSubMulStoreTheWrappedResult :=
  fun h l s => ⟨exec_storesAt_of_eq_binaryStore (exec_add h l s), exec_storesAt_of_eq_binaryStore (exec_sub h l s),
    exec_storesAt_of_eq_binaryStore (exec_mul h l s)⟩

/-- Settles O43: the stored functions are `and_` and `or_`, whose trits are the minimum and the maximum. -/
theorem andOrrStoreTheTritwiseResult : Obligations.AndOrrStoreTheTritwiseResult := by
  intro h l s
  obtain ⟨t, hand, hstore⟩ := exec_storesAt_of_eq_binaryStore (exec_and h l s)
  obtain ⟨u, horr, hstore'⟩ := exec_storesAt_of_eq_binaryStore (exec_orr h l s)
  exact ⟨⟨t, _, hand, hstore, fun _ hi => toInt_trit_and _ _ hi⟩, u, _, horr, hstore', fun _ hi => toInt_trit_or _ _ hi⟩

end Sys2Proof.Proofs.BinaryValue

/-! PROOFS. The skip-predicates (rules R171 to R175): the operands move only the program counter, the skip moves it by
one tryte more, and each instruction is named by its comparison. -/

namespace Sys2Proof.Proofs.ControlTransfer

open Sys2Proof.Machine Sys2Proof.Proofs.Stepping Sys2Proof.Proofs.BinaryValue

/-! ## What the operands and the skip change -/

/-- The decode sequence of two values (rule R127) leaves the state the binary value family's sequence leaves. -/
theorem onlyMovesPc_valThenVal (h l : Operand) (s : State) :
    OnlyMovesPc s (valThenVal h l s).after (offsetBy (pc s) (h.valExt + l.valExt : Nat)) := by
  rw [valThenVal_after, ← binaryOperands_after]
  exact onlyMovesPc_binaryOperands h l s

/-- A skip taken after the counter has passed `n` trytes makes it pass one more; a skip not taken leaves it there. -/
theorem onlyMovesPc_skipIf {s u : State} {n : Int} (hmoved : OnlyMovesPc s u (offsetBy (pc s) n)) (p : Bool) :
    OnlyMovesPc s (skipIf p u) (offsetBy (pc s) (if p = true then n + 1 else n)) := by
  cases p with
  | false => exact hmoved
  | true =>
    have hskip : OnlyMovesPc u (setPc u (offsetBy (pc u) 1)) (offsetBy (pc s) (n + 1)) := by
      obtain ⟨hpc, -⟩ := hmoved
      rw [← offsetBy_offsetBy, ← hpc]
      exact onlyMovesPc_setPc u _
    exact onlyMovesPc_trans hmoved hskip

/-- Every instruction over `skipOn` completes, and skips one tryte exactly when the comparison its predicate decides
holds of the two values. -/
theorem exec_onlyMovesPc_of_eq_skipOn {i : Instr} {pred : Tryte → Tryte → Bool} {h l : Operand} {s : State}
    {holds : Prop} [Decidable holds] (hexec : exec i s = skipOn pred h l s)
    (hpred : pred (valThenVal h l s).high (valThenVal h l s).low = true ↔ holds) :
    ∃ t, exec i s = .next t ∧
      OnlyMovesPc s t (offsetBy (pc s)
        (if holds then ((h.valExt + l.valExt : Nat) : Int) + 1 else (h.valExt + l.valExt : Nat))) := by
  refine ⟨_, hexec.trans (skipOn_next pred h l s), ?_⟩
  simp only [← hpred]
  exact onlyMovesPc_skipIf (onlyMovesPc_valThenVal h l s) _

/-! ## The comparison each instruction makes -/

theorem exec_slt (h l : Operand) (s : State) : exec (.slt h l) s = skipOn lessThan h l s := rfl

theorem exec_sge (h l : Operand) (s : State) : exec (.sge h l) s = skipOn greaterOrEqual h l s := rfl

theorem exec_seq (h l : Operand) (s : State) : exec (.seq h l) s = skipOn equal h l s := rfl

theorem exec_sne (h l : Operand) (s : State) : exec (.sne h l) s = skipOn notEqual h l s := rfl

/-! ## The statement -/

/-- Settles O49: the predicates decide `<`, `≥`, `=` and `≠` on raw values; the last one's two outcomes are stated the
other way round. -/
theorem skipPredicatesSkipOneTryte : Obligations.SkipPredicatesSkipOneTryte := by
  intro h l s a b n
  refine ⟨exec_onlyMovesPc_of_eq_skipOn (exec_slt h l s) (lessThan_iff _ _),
    exec_onlyMovesPc_of_eq_skipOn (exec_sge h l s) (greaterOrEqual_iff _ _),
    exec_onlyMovesPc_of_eq_skipOn (exec_seq h l s) (equal_iff _ _), ?sne⟩
  case sne =>
    rw [← ite_not]
    exact exec_onlyMovesPc_of_eq_skipOn (exec_sne h l s) (notEqual_iff _ _)

end Sys2Proof.Proofs.ControlTransfer

/-! PROOFS. The small-immediate load (rule R180) and the six unassigned opcodes (rule R183): a destination operand moves
only the program counter, and the low symbol of the load is a constant, not an operand. -/

namespace Sys2Proof.Proofs.SmallImmediate

open Sys2Proof.Machine Sys2Proof.Proofs.Stepping Sys2Proof.Proofs.BinaryValue

/-! ## The destination and the immediate -/

/-- A destination operand (rule R124) moves the counter past its extension tryte, if it takes one, and does nothing
else. -/
theorem onlyMovesPc_decodeDst (o : Operand) (s : State) :
    OnlyMovesPc s (decodeDst o s).2 (offsetBy (pc s) o.dstExt) :=
  ⟨pc_decodeDst o s, fun _ ha => memRead_decodeDst_other o s (List.ne_of_not_mem_cons ha)⟩

/-- The small immediate is the tryte of the symbol's digit (rule R65); a digit needs no wrapping. -/
theorem smallImmediate_eq_construct (k : Tribble) : smallImmediate k = construct (dig k) :=
  (norm_raw (addrOf k)).symm

/-! ## What each instruction does -/

/-- The load writes to the decoded destination after that operand's fetch; the low symbol takes no part in the decode. -/
theorem exec_ldi (h : Operand) (k : Tribble) (s : State) :
    exec (.ldi h k) s = .next (memWrite (decodeDst h s).2 (decodeDst h s).1 (smallImmediate k)) := rfl

/-- An instruction whose opcode is one of the six raises with that opcode, in the state it is given. -/
theorem exec_of_unassigned_opcode (sym : Tribble) (hsym : sym ∈ [(5 : Tribble), 13, 17, 22, 25, 26]) {i : Instr}
    (hop : i.opcode = sym) (s : State) : exec i s = .fault (.unimplementedOpcode sym s) := by
  subst hop
  obtain ⟨hassigned, -⟩ | ⟨-, hraise⟩ := exec_cases i s
  · exact absurd hsym hassigned
  · exact hraise

/-! ## The statements -/

/-- Settles O51: one store of the digit, after the destination's own fetch and no other. -/
theorem ldiStoresTheDigit : Obligations.LdiStoresTheDigit := by
  intro h k s
  refine ⟨_, exec_ldi h k s, ?_⟩
  rw [smallImmediate_eq_construct]
  exact storesAt_memWrite (onlyMovesPc_decodeDst h s) _ _

/-- Settles O34: each of the six instructions has one of the six opcodes. -/
theorem unassignedMeaningsStop : Obligations.UnassignedMeaningsStop :=
  fun _ _ s => ⟨exec_of_unassigned_opcode 5 (by decide) rfl s, exec_of_unassigned_opcode 13 (by decide) rfl s,
    exec_of_unassigned_opcode 17 (by decide) rfl s, exec_of_unassigned_opcode 22 (by decide) rfl s,
    exec_of_unassigned_opcode 25 (by decide) rfl s, exec_of_unassigned_opcode 26 (by decide) rfl s⟩

end Sys2Proof.Proofs.SmallImmediate

/-! PROOFS. The host's transaction `Step` (rule R196): it answers with the outcome of a step and the state it left. -/

namespace Sys2Proof.Proofs.HostInterface

open Sys2Proof.Machine Sys2Proof.Proofs.Stepping

/-! ## The outcome of a step, as the host sees it -/

theorem hostStep_of_next {s t : State} (h : step s = .next t) : hostStep s = .completes () t :=
  congrArg stepOutcome h

theorem hostStep_of_fault {s t : State} {sym : Tribble} (h : step s = .fault (.unimplementedOpcode sym t)) :
    hostStep s = .raises (.unimplementedOpcode sym) t :=
  congrArg stepOutcome h

/-! ## The statement -/

/-- Settles O59: the two cases of a step, each passed on by the transaction; a raising step leaves the state after its
fetch, where only the counter has moved. -/
theorem hostStepReportsTheNewState : Obligations.HostStepReportsTheNewState := by
  intro s
  obtain ⟨_, t, hnext⟩ | ⟨_, hraise⟩ := stepWith_cases Config.hasDiv s
  · exact .inl ⟨t, hnext, hostStep_of_next hnext⟩
  · exact .inr ⟨_, _, hraise, hostStep_of_fault hraise, onlyMovesPc_setPc s _⟩

end Sys2Proof.Proofs.HostInterface

/-! PROOFS. The invariant (rule R25 and the canonical form): reset meets it, and whatever an instruction, a step or a
host transaction leaves meets it, since every change of the state is a chain of writes. -/

namespace Sys2Proof.Proofs.Invariant

open Sys2Proof.Machine

/-- Settles O17: the reset memory lists no slot. -/
theorem resetMeetsTheInvariant : Obligations.ResetMeetsTheInvariant := ⟨wf_nil, cellAt_nil _⟩

/-! ## What an instruction leaves -/

/-- Whatever state a result leaves, by completing or by raising, meets the invariant. -/
def LeavesInv (r : Result) : Prop := ∀ t, stateAfter r = some t → t.Inv

theorem leavesInv_next {s : State} (hs : s.Inv) : LeavesInv (.next s) := by
  rintro t ⟨⟩
  exact hs

theorem leavesInv_raise {s : State} (sym : Tribble) (hs : s.Inv) : LeavesInv (raiseUnimplemented sym s) := by
  rintro t ⟨⟩
  exact hs

theorem inv_binaryOperands {s : State} (h l : Operand) (hs : s.Inv) : (binaryOperands h l s).after.Inv :=
  inv_decodeVal l (inv_decodeBoth h hs)

theorem inv_dstThenVal {s : State} (h l : Operand) (hs : s.Inv) : (dstThenVal h l s).after.Inv :=
  inv_decodeVal l (inv_decodeDst h hs)

theorem inv_dstThenDst {s : State} (h l : Operand) (hs : s.Inv) : (dstThenDst h l s).after.Inv :=
  inv_decodeDst l (inv_decodeDst h hs)

theorem inv_valThenVal {s : State} (h l : Operand) (hs : s.Inv) : (valThenVal h l s).after.Inv :=
  inv_decodeVal l (inv_decodeVal h hs)

theorem leavesInv_binaryStore {s : State} (f : Tryte → Tryte → Tryte) (h l : Operand) (hs : s.Inv) :
    LeavesInv (binaryStore f h l s) :=
  leavesInv_next (inv_memWrite _ _ (inv_binaryOperands h l hs))

theorem leavesInv_skipOn {s : State} (pred : Tryte → Tryte → Bool) (h l : Operand) (hs : s.Inv) :
    LeavesInv (skipOn pred h l s) :=
  leavesInv_next (inv_skipIf _ (inv_valThenVal h l hs))

/-- Every instruction keeps the invariant: it decodes its operands by fetches, and then writes, skips, jumps, raises or
does nothing. -/
theorem leavesInv_exec (i : Instr) {s : State} (hs : s.Inv) : LeavesInv (exec i s) := by
  cases i with
  | add h l | sub h l | mul h l | div h l | and h l | orr h l => exact leavesInv_binaryStore _ h l hs
  | mov h l => exact leavesInv_binaryStore (fun _ b => b) h l hs
  | tri h l => exact leavesInv_next (inv_memWrite _ _ (inv_fetch (inv_binaryOperands h l hs)))
  | ldx h l | stx h l => exact leavesInv_next (inv_memWrite _ _ (inv_binaryOperands h l hs))
  | slt h l | sge h l | seq h l | sne h l => exact leavesInv_skipOn _ h l hs
  | jmp h l => exact leavesInv_next (inv_setPc _ hs)
  | ldi h k | adi h k => exact leavesInv_next (inv_memWrite _ _ (inv_decodeDst h hs))
  | psh h l => exact leavesInv_next (inv_pushAt _ _ (inv_dstThenVal h l hs))
  | pop h l => exact leavesInv_next (inv_memWrite _ _ (inv_memWrite _ _ (inv_dstThenDst h l hs)))
  | cal h l => exact leavesInv_next (inv_setPc _ (inv_pushAt _ _ (inv_dstThenVal h l hs)))
  | hwi h l => exact leavesInv_next hs
  | unimpF h l | unimp0 h l | unimpQ h l | unimpV h l | unimpY h l | unimpZ h l => exact leavesInv_raise _ hs

/-! ## What a step leaves -/

theorem leavesInv_runDecoded (hasDiv : Bool) (i : Instr) {s : State} (hs : s.Inv) :
    LeavesInv (runDecoded hasDiv i s) := by
  cases hoff : i.offered hasDiv with
  | true =>
    rw [runDecoded_offered s hoff]
    exact leavesInv_exec i hs
  | false =>
    rw [runDecoded_not_offered s hoff]
    exact leavesInv_raise _ hs

theorem leavesInv_stepWith (hasDiv : Bool) {s : State} (hs : s.Inv) : LeavesInv (stepWith hasDiv s) :=
  leavesInv_runDecoded hasDiv _ (inv_fetch hs)

theorem inv_of_step_next {s t : State} (hs : s.Inv) (hstep : step s = .next t) : t.Inv :=
  leavesInv_stepWith Config.hasDiv hs t (congrArg stateAfter hstep)

/-- Settles O19: each outcome named in the statement is one whose state `stateAfter` gives. -/
theorem everyStepKeepsTheInvariant : Obligations.EveryStepKeepsTheInvariant :=
  fun hasDiv _ hs =>
    ⟨fun _ hstep => inv_of_step_next hs hstep,
      fun t hnext => leavesInv_stepWith hasDiv hs t (congrArg stateAfter hnext),
      fun _ t hfault => leavesInv_stepWith hasDiv hs t (congrArg stateAfter hfault)⟩

end Sys2Proof.Proofs.Invariant

/-! PROOFS. The decoder and the encoder as inverse maps (rules R60, R61, R67), and the lengths (rules R62, R68). -/

namespace Sys2Proof.Proofs.Decoder

open Sys2Proof.Machine Sys2Proof.Proofs.Encoding Sys2Proof.Proofs.Numeral
open Sys2Proof.Laws.FieldPlacement (tribbleString_ofSyms)

/-! ## Decoding what was encoded -/

/-- A well-formed operand is the class of the symbol it is written with (rules R61, R71). -/
theorem classify_symbol {o : Operand} (ho : o.wellFormed = true) : classify o.symbol = o := by
  cases o with
  | direct r =>
    obtain ⟨hdiscard, hindirect⟩ : r ≠ Config.discardSym ∧ r ≠ Config.indirectSym := by
      simpa [Operand.wellFormed] using ho
    rw [Operand.symbol, classify, if_neg hdiscard, if_neg hindirect]
  | discard => rfl
  | indirect => rfl

/-- The opcode map (rule R67) reads a well-formed instruction back from its three symbols. -/
theorem ofSymbols_symbols {i : Instr} (hi : i.wellFormed = true) : ofSymbols i.opcode i.high i.low = i := by
  cases i with
  | add h l | slt h l | cal h l | div h l | seq h l | sge h l | ldx h l | mov h l | and h l | pop h l | psh h l
  | orr h l | sub h l | tri h l | sne h l | stx h l | mul h l =>
    obtain ⟨hh, hl⟩ : h.wellFormed = true ∧ l.wellFormed = true := by simpa [Instr.wellFormed] using hi
    simp [ofSymbols, Instr.opcode, Instr.high, Instr.low, classify_symbol hh, classify_symbol hl]
  | ldi h k | adi h k =>
    have hh : h.wellFormed = true := hi
    simp [ofSymbols, Instr.opcode, Instr.high, Instr.low, classify_symbol hh]
  | _ => rfl

/-- A tryte built from three symbols decodes by the opcode map on these symbols (rule R60). -/
theorem decode_ofSyms (p2 p1 p0 : Tribble) : decode (ofSyms p2 p1 p0) = ofSymbols p2 p1 p0 := by
  obtain ⟨h2, h1, h0⟩ : sym2 (ofSyms p2 p1 p0) = p2 ∧ sym1 (ofSyms p2 p1 p0) = p1 ∧ sym0 (ofSyms p2 p1 p0) = p0 := by
    simpa [tribbleString] using tribbleString_ofSyms p2 p1 p0
  rw [decode, h2, h1, h0]

theorem decode_encode {i : Instr} (hi : i.wellFormed = true) : decode (encode i) = i := by
  rw [encode, decode_ofSyms, ofSymbols_symbols hi]

/-- Settles O23: the three symbols come back from the tryte, and the instruction from the three symbols. -/
theorem decodeOfEncodeIsTheInstruction : Obligations.DecodeOfEncodeIsTheInstruction :=
  fun _ hi => decode_encode hi

/-! ## Encoding what was decoded -/

/-- No symbol classifies as a direct operand at a marker. -/
@[simp] theorem wellFormed_classify (s : Tribble) : (classify s).wellFormed = true := by
  unfold classify
  split
  · rfl
  · next hdiscard =>
    split
    · rfl
    · next hindirect => simp [Operand.wellFormed, hdiscard, hindirect]

theorem wellFormed_ofSymbols (op h l : Tribble) : (ofSymbols op h l).wellFormed = true := by
  fin_cases op <;> simp [ofSymbols, Instr.wellFormed]

/-- Settles O24: every row of the opcode map is well formed, and `encode` puts the three symbols of a tryte back. -/
theorem encodeOfDecodeIsTheTryte : Obligations.EncodeOfDecodeIsTheTryte :=
  fun w => ⟨wellFormed_ofSymbols _ _ _, encode_decode w⟩

/-! ## Instruction text -/

/-- The text of three symbols decodes by the opcode map on these symbols (rules R67, R84). -/
theorem decodeText_map_symChar (p2 p1 p0 : Tribble) :
    decodeText ([p2, p1, p0].map symChar) = .ok (ofSymbols p2 p1 p0) := by
  have htext : fromTribbles ([p2, p1, p0].map symChar) = .ok (ofSyms p2 p1 p0) := by
    rw [fromTribbles_eq_ok_iff, tribbleText, tribbleString_ofSyms]
  rw [decodeText, htext, ← decode_ofSyms]

/-- Settles O27: each word is the text of its three symbols. -/
theorem sampleWordsDecode : Obligations.SampleWordsDecode :=
  ⟨decodeText_map_symChar 12 4 0, decodeText_map_symChar 0 16 13, decodeText_map_symChar 20 8 13,
    decodeText_map_symChar 15 19 16, decodeText_map_symChar 9 8 13, decodeText_map_symChar 4 8 26,
    decodeText_map_symChar 8 0 8, decodeText_map_symChar 7 13 8, decodeText_map_symChar 5 13 8⟩

/-! ## Lengths -/

theorem dstExt_le_one (o : Operand) : o.dstExt ≤ 1 := by cases o <;> simp [Operand.dstExt]

theorem valExt_le_one (o : Operand) : o.valExt ≤ 1 := by cases o <;> simp [Operand.valExt]

/-- Two operands take at most one extension tryte each, and the table of `TRI` is one more (rule R62). -/
theorem extCount_le_three (i : Instr) : i.extCount ≤ 3 := by
  cases i with
  | psh h l | cal h l => exact Nat.le_succ_of_le (Nat.add_le_add (dstExt_le_one h) (valExt_le_one l))
  | pop h l => exact Nat.le_succ_of_le (Nat.add_le_add (dstExt_le_one h) (dstExt_le_one l))
  | tri h l => exact Nat.succ_le_succ (Nat.add_le_add (valExt_le_one h) (valExt_le_one l))
  | add h l | div h l | ldx h l | mov h l | and h l | orr h l | sub h l | stx h l | mul h l | slt h l | sge h l
  | seq h l | sne h l => exact Nat.le_succ_of_le (Nat.add_le_add (valExt_le_one h) (valExt_le_one l))
  | ldi h k | adi h k => exact (dstExt_le_one h).trans (by decide)
  | _ => exact Nat.zero_le 3

/-- The table tryte of `TRI` counts besides the instruction tryte (rule R157). -/
theorem length_tri (h l : Operand) : (Instr.tri h l).length = 2 + h.valExt + l.valExt := by
  simp only [Instr.length, Instr.extCount]
  omega

/-- Settles O26: the table of lengths, and the bound on the extension trytes. -/
theorem lengthsFollowTheRoles : Obligations.LengthsFollowTheRoles := by
  refine ⟨fun r => ⟨rfl, rfl⟩, ⟨rfl, rfl⟩, ⟨rfl, rfl⟩, fun h l => ?twoOperands, fun h k => ⟨rfl, rfl⟩,
    fun h l => ?noOperand, rfl, fun i => Nat.add_le_add_left (extCount_le_three i) 1⟩
  case twoOperands =>
    exact ⟨(Nat.add_assoc ..).symm, (Nat.add_assoc ..).symm, (Nat.add_assoc ..).symm,
      by simp [Instr.length, Instr.extCount, Nat.add_assoc], length_tri h l⟩
  case noOperand => simp [Instr.length, Instr.extCount]

end Sys2Proof.Proofs.Decoder

/-! PROOFS. The conversions of the numeral converter, element by element: trit strings (rules R85, R86), the order of
the checks on bad input (rule R92), and the raw digits (rules R88, R89). -/

namespace Sys2Proof.Proofs.Conversions

open Sys2Proof.Machine Sys2Proof.Proofs.Numeral
open Sys2Proof.Laws.FieldPlacement (tribbleString_ofSyms)

/-! ## Trits and symbols -/

/-- Settles O4: the uniqueness of the nine trits, written out. -/
theorem tritsSpellTheValueUniquely : Obligations.TritsSpellTheValueUniquely := by
  intro t x8 x7 x6 x5 x4 x3 x2 x1 x0
  have hvalue : positional 3 ([x8, x7, x6, x5, x4, x3, x2, x1, x0].map Trit.toInt) =
      6561 * x8.toInt + 2187 * x7.toInt + 729 * x6.toInt + 243 * x5.toInt + 81 * x4.toInt + 27 * x3.toInt +
        9 * x2.toInt + 3 * x1.toInt + x0.toInt := by
    simp only [positional, List.map_cons, List.map_nil, List.foldl_cons, List.foldl_nil]
    ring
  rw [tritString_eq_iff t rfl, hvalue]

/-- The three base-3 digits of the digit of weight `b = 27 ^ k` are those of the number at the weights `9 b`, `3 b` and
`b`. -/
theorem digits_of_base27_digit (u b : Nat) :
    u / b % 27 / 9 % 3 = u / (b * 9) % 3 ∧ u / b % 27 / 3 % 3 = u / (b * 3) % 3 ∧
      u / b % 27 / 1 % 3 = u / b % 3 := by
  rw [← Nat.div_div_eq_div_mul, ← Nat.div_div_eq_div_mul]
  omega

theorem tribbleTrits_eq {s : Tribble} {u b : Nat} (hs : s.val = u / b % 27) :
    tribbleTrits s = [tritOfRaw (u / (b * 9) % 3), tritOfRaw (u / (b * 3) % 3), tritOfRaw (u / b % 3)] := by
  obtain ⟨h9, h3, h1⟩ := digits_of_base27_digit u b
  simp only [tribbleTrits, List.map_cons, List.map_nil, hs, h9, h3, h1]

/-- Settles O5: the three symbols are the base-27 digits of the unbiased value, and each of these is three base-3
digits. -/
theorem eachTribbleIsThreeTrits : Obligations.EachTribbleIsThreeTrits := by
  intro t
  have htop : (sym2 t).val = unbiased t / 729 % 27 := (Nat.mod_eq_of_lt (sym2 t).isLt).symm
  have hlow : (sym0 t).val = unbiased t / 1 % 27 := by rw [Nat.div_one, sym0_val]
  rw [tribbleTrits_eq htop, tribbleTrits_eq (sym1_val t), tribbleTrits_eq hlow]
  rfl

/-! ## Bad input -/

/-- R92: the leftmost element that does not convert is the one the error carries, with its position. -/
theorem convertAll_of_bad {α β : Type} {f : α → Option β} {c : α} {before : List α}
    (hbefore : ∀ x ∈ before, f x ≠ none) (hc : f c = none) (position : Nat) (after : List α) :
    convertAll f position (before ++ c :: after) = .error (.unknownSymbol (position + before.length) c) := by
  induction before generalizing position with
  | nil => simp [convertAll, hc]
  | cons x xs ih =>
    obtain ⟨hx, hxs⟩ := List.forall_mem_cons.mp hbefore
    obtain ⟨y, hy⟩ := Option.ne_none_iff_exists'.mp hx
    have hrest := ih hxs (position + 1)
    rw [List.cons_append, convertAll, hy]
    simp only [hrest, List.length_cons]
    rw [Nat.add_right_comm, Nat.add_assoc]

theorem convertDigits_of_length_ne {α : Type} {len : Nat} {xs : List α} (base : Int) (f : α → Option Int)
    (hlen : xs.length ≠ len) : convertDigits len base f xs = .error .wrongLength := by
  rw [convertDigits, if_neg hlen]

theorem convertDigits_of_bad {α : Type} {f : α → Option Int} {len : Nat} {c : α} {before after : List α} (base : Int)
    (hlen : (before ++ c :: after).length = len) (hbefore : ∀ x ∈ before, f x ≠ none) (hc : f c = none) :
    convertDigits len base f (before ++ c :: after) = .error (.unknownSymbol before.length c) := by
  rw [convertDigits, if_pos hlen, convertAll_of_bad hbefore hc, Nat.zero_add]

/-- R84: three known characters are the text of the tryte their symbols spell. -/
theorem fromTribbles_of_symbols {c2 c1 c0 : Char} {p2 p1 p0 : Tribble} (h2 : symOfChar c2 = some p2)
    (h1 : symOfChar c1 = some p1) (h0 : symOfChar c0 = some p0) :
    fromTribbles [c2, c1, c0] = .ok (ofSyms p2 p1 p0) := by
  rw [symOfChar_eq_some_iff] at h2 h1 h0
  rw [fromTribbles_eq_ok_iff, tribbleText, tribbleString_ofSyms, h2, h1, h0]
  rfl

/-- Settles O6: the two errors of the shared form, and the value of three symbols. -/
theorem fromTribblesChecksLengthThenSymbols : Obligations.FromTribblesChecksLengthThenSymbols := by
  refine ⟨fun _ hlen => convertDigits_of_length_ne 27 _ hlen, fun before after c hlen hbefore hc => ?unknown,
    fun _ _ _ p2 p1 p0 h2 h1 h0 => ⟨ofSyms p2 p1 p0, fromTribbles_of_symbols h2 h1 h0, raw_ofSyms p2 p1 p0⟩⟩
  case unknown => exact convertDigits_of_bad 27 hlen (by simpa using hbefore) (by simpa using hc)

/-! ## The trit alphabet and the raw digits -/

/-- The trit alphabet holds the characters of the three trits and no other. -/
theorem mem_tritAlphabet_iff (c : Char) : c ∈ Config.tritAlphabet ↔ ∃ x, c = tritChar x := by
  have halphabet : Config.tritAlphabet = [Trit.neg, .zero, .pos].map tritChar := rfl
  have hall : ∀ x : Trit, x ∈ [Trit.neg, .zero, .pos] := by
    intro x
    cases x <;> decide
  rw [halphabet, List.mem_map]
  exact ⟨fun ⟨x, _, hx⟩ => ⟨x, hx.symm⟩, fun ⟨x, hx⟩ => ⟨x, hall x, hx.symm⟩⟩

theorem tritOfChar_ne_none_iff (c : Char) : tritOfChar c ≠ none ↔ c ∈ Config.tritAlphabet := by
  simp only [Option.ne_none_iff_exists', tritOfChar_eq_some_iff, mem_tritAlphabet_iff]

theorem tritOfRawDigit_ne_none_iff (r : Int) : tritOfRawDigit r ≠ none ↔ 0 ≤ r ∧ r ≤ 2 := by
  simp [tritOfRawDigit]

/-- Settles O7: the two errors of the shared form, for the characters and for the raw digits. -/
theorem tritConversionsCheckLengthThenSymbols : Obligations.TritConversionsCheckLengthThenSymbols := by
  refine ⟨fun _ hlen => convertDigits_of_length_ne 3 _ hlen, fun before after c hlen hbefore hc => ?char,
    fun _ hlen => convertDigits_of_length_ne 3 _ hlen, fun before after r hlen hbefore hr => ?digit⟩
  case char =>
    simp only [← tritOfChar_ne_none_iff, not_not] at hbefore hc
    exact convertDigits_of_bad 3 hlen (by simpa using hbefore) (by simpa using hc)
  case digit =>
    simp only [← tritOfRawDigit_ne_none_iff, not_not] at hbefore hr
    exact convertDigits_of_bad 3 hlen hbefore hr

/-- R88: a raw digit is a trit plus one, and every trit has one. -/
theorem tritOfRawDigit_eq_some_iff (r y : Int) :
    tritOfRawDigit r = some y ↔ ∃ x : Trit, r = x.toInt + 1 ∧ y = x.toInt := by
  unfold tritOfRawDigit
  constructor
  · intro h
    split at h
    · next hr =>
      have hx : (tritOfRaw r.toNat).toInt = r - 1 := by
        rw [toInt_tritOfRaw (by omega)]
        omega
      exact ⟨tritOfRaw r.toNat, by omega, by rw [hx, Option.some.inj h]⟩
    · cases h
  · rintro ⟨x, rfl, rfl⟩
    cases x <;> rfl

/-- R88, R89: `fromRawTrits` accepts exactly the raw digits of trytes, and each list as the tryte it belongs to. -/
theorem fromRawTrits_eq_ok_iff (ds : List Int) (t : Tryte) : fromRawTrits ds = .ok t ↔ ds = rawTrits t :=
  convertDigits_eq_ok_iff_eq_map (str := tritString) (enc := fun x : Trit => x.toInt + 1) tritOfRawDigit_eq_some_iff
    (fun _ => rfl) (fun t _ hlen => tritString_eq_iff_eq_norm t hlen) ds t

/-- Settles O8: both directions of the equivalence. -/
theorem rawTritsInvertFromRawTrits : Obligations.RawTritsInvertFromRawTrits :=
  ⟨fun t => (fromRawTrits_eq_ok_iff _ t).mpr rfl, fun ds t h => ((fromRawTrits_eq_ok_iff ds t).mp h).symm⟩

end Sys2Proof.Proofs.Conversions

/-! PROOFS. The rest of the Tryte unit: the guarded quotient (rule R103), the table-driven logic (rules R106, R107), the
order of trytes as the lexicographic order of their trits (rule R108), and negation (rule R110). -/

namespace Sys2Proof.Proofs.TryteUnit

open Sys2Proof.Machine Sys2Proof.Proofs.Numeral Sys2Proof.Proofs.Arithmetic Sys2Proof.Proofs.TritwiseLogic

/-! ## The quotient -/

theorem div_of_zero (a : Tryte) {b : Tryte} (hb : b.raw = 0) : div a b = Tryte.zero := if_pos hb

/-- R103: a quotient is no larger than its dividend, so it never wraps. -/
theorem raw_div (a : Tryte) {b : Tryte} (hb : b.raw ≠ 0) : (div a b).raw = a.raw.fdiv b.raw := by
  have hl := a.lower
  have hu := a.upper
  have hsmall := Int.natAbs_fdiv_le_natAbs a.raw b.raw
  have hdiv : div a b = Tryte.norm (a.raw.fdiv b.raw) := if_neg hb
  rw [hdiv, raw_norm_of_range (by omega) (by omega)]

/-- The floor quotient by a positive divisor is the last multiple not above the dividend. -/
theorem fdiv_bounds (a : Int) {b : Int} (hb : 0 < b) : a.fdiv b * b ≤ a ∧ a < (a.fdiv b + 1) * b := by
  have hsplit := Int.mul_fdiv_add_fmod a b
  have hnonneg := Int.fmod_nonneg_of_pos a hb
  have hlt := Int.fmod_lt_of_pos a hb
  constructor <;> linarith

/-- Settles O10: the guard, the bounds of the floor quotient, and the same bounds with both signs turned for a negative
divisor. -/
theorem divisionIsFloorWithZeroGuard : Obligations.DivisionIsFloorWithZeroGuard := by
  refine fun a b => ⟨div_of_zero a, fun hpos => ?positive, fun hneg => ?negative⟩
  case positive =>
    rw [raw_div a hpos.ne']
    exact fdiv_bounds a.raw hpos
  case negative =>
    obtain ⟨hle, hlt⟩ := fdiv_bounds (-a.raw) (neg_pos.mpr hneg)
    rw [Int.neg_fdiv_neg] at hle hlt
    rw [raw_div a hneg.ne]
    constructor <;> linarith

/-! ## Truth tables -/

theorem apply_comm (f : TruthTable) (x y : Trit) : f.apply x y = f.apply y x := by
  cases x <;> cases y <;> rfl

/-- Settles O12: the generic operation is the tritwise operation of a symmetric trit function. -/
theorem genericTritwiseAppliesTheTable : Obligations.GenericTritwiseAppliesTheTable :=
  fun a b f => ⟨apply_comm f, fun _ hi => trit_tritwise f.apply a b hi, tritwise_comm (apply_comm f) a b⟩

/-- Two trits are equal exactly when the base-3 digits they stand for are. -/
theorem trit_eq_trit_iff (a b : Tryte) (i : Nat) :
    trit a i = trit b i ↔ unbiased a / 3 ^ i % 3 = unbiased b / 3 ^ i % 3 := by
  refine ⟨fun h => ?_, fun h => congrArg tritOfRaw h⟩
  have hint := congrArg Trit.toInt h
  rw [toInt_trit, toInt_trit] at hint
  omega

/-- Two numbers have the same six low base-3 digits exactly when they have the same remainder modulo `3 ^ 6`. -/
theorem six_digits_eq_iff (u v : Nat) :
    (u / 3 ^ 5 % 3 = v / 3 ^ 5 % 3 ∧ u / 3 ^ 4 % 3 = v / 3 ^ 4 % 3 ∧ u / 3 ^ 3 % 3 = v / 3 ^ 3 % 3 ∧
      u / 3 ^ 2 % 3 = v / 3 ^ 2 % 3 ∧ u / 3 ^ 1 % 3 = v / 3 ^ 1 % 3 ∧ u / 3 ^ 0 % 3 = v / 3 ^ 0 % 3) ↔
      u % 729 = v % 729 := by
  omega

/-- R107: the table reads the six low trits and nothing else. -/
theorem tableOf_eq_iff (t t' : Tryte) : tableOf t = tableOf t' ↔ unbiased t % 729 = unbiased t' % 729 := by
  simp only [tableOf, TruthTable.mk.injEq, trit_eq_trit_iff, six_digits_eq_iff]

/-- R109 (d): the entries of the table -350 are the smaller trits. -/
theorem apply_tableOf_neg_350 : (tableOf (construct (-350))).apply = minTrit := by
  funext x y
  cases x <;> cases y <;> decide

/-- R109 (d): the entries of the table -212 are the larger trits. -/
theorem apply_tableOf_neg_212 : (tableOf (construct (-212))).apply = maxTrit := by
  funext x y
  cases x <;> cases y <;> decide

/-- Settles O13: the bias cancels in the congruence; the two tables are the functions of `and_` and `or_`. -/
theorem tableTryteLayout : Obligations.TableTryteLayout := by
  refine ⟨fun t t' => ?layout, fun a b => ⟨?and, ?or⟩⟩
  case layout =>
    have ht := unbiased_cast t
    have ht' := unbiased_cast t'
    rw [tableOf_eq_iff]
    omega
  case and => rw [genericTritwiseOp, apply_tableOf_neg_350, and_]
  case or => rw [genericTritwiseOp, apply_tableOf_neg_212, or_]

/-! ## The order -/

/-- Trytes that agree at every place from `i` up have the same leading digits. -/
theorem div_pow_eq_of_trit_eq {a b : Tryte} {i : Nat} (hi : i ≤ 9)
    (h : ∀ j, i ≤ j → j < 9 → trit a j = trit b j) : unbiased a / 3 ^ i = unbiased b / 3 ^ i := by
  refine Nat.decreasingInduction' (P := fun k => unbiased a / 3 ^ k = unbiased b / 3 ^ k) (fun k hk hik ih => ?_) hi ?_
  · have hdigit := (trit_eq_trit_iff a b k).mp (h k hik hk)
    rw [pow_succ, ← Nat.div_div_eq_div_mul, ← Nat.div_div_eq_div_mul] at ih
    omega
  · exact (Nat.div_eq_of_lt (unbiased_lt a)).trans (Nat.div_eq_of_lt (unbiased_lt b)).symm

/-- The tryte with the smaller trit at a place above which the two agree is the smaller one. -/
theorem raw_lt_of_trit_lt {a b : Tryte} {i : Nat} (hi : i < 9) (habove : ∀ j, i < j → j < 9 → trit a j = trit b j)
    (hlt : (trit a i).toInt < (trit b i).toInt) : a.raw < b.raw := by
  have hlead := div_pow_eq_of_trit_eq hi habove
  rw [pow_succ, ← Nat.div_div_eq_div_mul, ← Nat.div_div_eq_div_mul] at hlead
  rw [toInt_trit, toInt_trit] at hlt
  have hquot : unbiased a / 3 ^ i < unbiased b / 3 ^ i := by omega
  have hslot : unbiased a < unbiased b := lt_of_not_ge fun hge => absurd (Nat.div_le_div_right hge) hquot.not_ge
  have ha := unbiased_cast a
  have hb := unbiased_cast b
  omega

/-- Different trytes have a most significant place where their trits differ. -/
theorem exists_top_difference {a b : Tryte} (hab : a ≠ b) :
    ∃ i, i < 9 ∧ (∀ j, i < j → j < 9 → trit a j = trit b j) ∧ trit a i ≠ trit b i := by
  obtain ⟨k, hk, hne⟩ : ∃ k, k < 9 ∧ trit a k ≠ trit b k := by
    by_contra hall
    push Not at hall
    exact hab (eq_of_trit_eq hall)
  refine ⟨Nat.findGreatest (fun j => trit a j ≠ trit b j) 8, Nat.lt_succ_of_le (Nat.findGreatest_le 8),
    fun j hj hj9 => not_not.mp (Nat.findGreatest_is_greatest hj (Nat.le_of_lt_succ hj9)), ?_⟩
  exact Nat.findGreatest_spec (P := fun j => trit a j ≠ trit b j) (Nat.le_of_lt_succ hk) hne

/-- R108: the order of the raw values is the lexicographic order of the trits, most significant first. At the top
difference the trits of `b` cannot be the smaller ones, or `b` would be the smaller tryte. -/
theorem raw_lt_iff_trit_lt (a b : Tryte) :
    a.raw < b.raw ↔
      ∃ i, i < 9 ∧ (∀ j, i < j → j < 9 → trit a j = trit b j) ∧ (trit a i).toInt < (trit b i).toInt := by
  refine ⟨fun hlt => ?_, fun ⟨i, hi, habove, htrit⟩ => raw_lt_of_trit_lt hi habove htrit⟩
  have hab : a ≠ b := fun h => hlt.ne (congrArg Tryte.raw h)
  obtain ⟨i, hi, habove, hne⟩ := exists_top_difference hab
  refine ⟨i, hi, habove, lt_of_le_of_ne (le_of_not_gt fun hgt => ?_) fun h => hne (toInt_injective h)⟩
  exact absurd (raw_lt_of_trit_lt hi (fun j hij hj => (habove j hij hj).symm) hgt) hlt.not_gt

theorem raw_eq_iff_trit_eq (a b : Tryte) : a.raw = b.raw ↔ ∀ i, i < 9 → trit a i = trit b i :=
  ⟨fun h i _ => congrArg (trit · i) (Tryte.ext h), fun h => congrArg Tryte.raw (eq_of_trit_eq h)⟩

/-- Settles O14: the two equivalences above, and the four other relations as the order on integers has them. -/
theorem orderIsLexicographicOnTrits : Obligations.OrderIsLexicographicOnTrits := by
  refine fun a b => ⟨lessThan_iff a b, (lessThan_iff a b).trans (raw_lt_iff_trit_lt a b),
    (equal_iff a b).trans (raw_eq_iff_trit_eq a b), rfl, ?lessOrEqual, ?greaterOrEqual, ?notEqual⟩
  case lessOrEqual => simp [lessOrEqual, lessThan, equal, le_iff_lt_or_eq]
  case greaterOrEqual => simp [greaterOrEqual, lessThan, ← decide_not]
  case notEqual => simp [notEqual, equal]

/-! ## Negation -/

/-- The complement `3 ^ 9 - 1 - u` of a number of nine base-3 digits has the complementary digit at each place. -/
theorem digit_complement {u v i : Nat} (hi : i < 9) (huv : u + v = 19682) : u / 3 ^ i % 3 + v / 3 ^ i % 3 = 2 := by
  interval_cases i <;> omega

/-- R110: a tryte with the negated value has the negated trits, since their unbiased values add up to 19682. -/
theorem toInt_trit_of_raw_neg {a b : Tryte} (hab : b.raw = -a.raw) {i : Nat} (hi : i < 9) :
    (trit b i).toInt = -(trit a i).toInt := by
  have ha := unbiased_cast a
  have hb := unbiased_cast b
  have hdigits := digit_complement (u := unbiased a) (v := unbiased b) hi (by omega)
  rw [toInt_trit, toInt_trit]
  omega

/-- Settles O15: both operations give the tryte with the negated value. -/
theorem negationNegatesEveryTrit : Obligations.NegationNegatesEveryTrit :=
  fun a _ hi => ⟨toInt_trit_of_raw_neg (raw_zero_sub a) hi,
    Tryte.ext ((raw_mul_neg_one a).trans (raw_zero_sub a).symm)⟩

end Sys2Proof.Proofs.TryteUnit

/-! PROOFS. The control registers and the fetch (rules R26, R52), value operands (rules R125, R126), and steps at a
known instruction: its meaning (rule R120), the step after an error (rule R218), the jump (rule R170) and its
self-loop (rule R72), the hook (rule R182). -/

namespace Sys2Proof.Proofs.Control

open Sys2Proof.Machine Sys2Proof.Proofs.Numeral Sys2Proof.Proofs.Decoder Sys2Proof.Proofs.Stepping
open Sys2Proof.Proofs.BinaryValue Sys2Proof.Proofs.HostInterface

/-! ## Control registers and the fetch -/

/-- Settles O22: the addresses are the digits of the three symbols, and each register reads the cell there. -/
theorem controlRegisterAddresses : Obligations.ControlRegisterAddresses :=
  ⟨⟨rfl, rfl, rfl⟩, by decide,
    ⟨symOfChar_symChar Config.pcSym, symOfChar_symChar Config.spSym, symOfChar_symChar Config.zeroSym⟩,
    fun s => ⟨rfl, rfl, memRead_zeroAddr s⟩⟩

/-- A write to any cell but the counter's leaves the counter. -/
theorem pc_memWrite_other (s : State) {a : Tryte} (v : Tryte) (ha : a ≠ pcAddr) : pc (memWrite s a v) = pc s :=
  memRead_memWrite_other s v ha.symm

/-- Settles O21: a store at the counter's target leaves the counter, so the fetch reads the cell just stored. -/
theorem fetchSeesTheLatestStore : Obligations.FetchSeesTheLatestStore := by
  refine ⟨fun s w hpc hzero => ?stored, fun s hpc => ?own⟩
  case stored =>
    have hkeep : pc (memWrite s (pc s) w) = pc s := pc_memWrite_other s w hpc
    have hmove := onlyMovesPc_fetch (memWrite s (pc s) w)
    rw [hkeep] at hmove
    refine ⟨?_, hmove⟩
    rw [(fetch_spec _).1, hkeep, memRead_memWrite_same s w hzero]
  case own =>
    have hread : memRead s (pc s) = pcAddr := (congrArg (memRead s) hpc).trans hpc
    refine ⟨(fetch_spec s).1.trans hread, ?_⟩
    rw [pc_fetch, hpc]

/-! ## Value operands -/

/-- Settles O29: the three classes of `decodeVal`; the read of the last one comes after its fetch. -/
theorem valueOperandForms : Obligations.ValueOperandForms := by
  refine fun s r => ⟨decodeVal_direct r s, ?discard, ?indirect⟩
  case discard =>
    rw [decodeVal_discard]
    exact ⟨(fetch_spec s).1, onlyMovesPc_fetch s⟩
  case indirect =>
    obtain ⟨hfetched, hcells⟩ := fetch_spec s
    rw [decodeVal_indirect]
    exact ⟨by rw [hcells, hfetched], onlyMovesPc_fetch s⟩

/-- Settles O30: the roles of an operand in both are those it has alone, and the two decodes only fetch. -/
theorem binaryOperandsResolveHighOnceThenLow : Obligations.BinaryOperandsResolveHighOnceThenLow := by
  refine fun s h l => ⟨binaryOperands_dst h l s, binaryOperands_first h l s, binaryOperands_second h l s,
    onlyMovesPc_binaryOperands h l s, ?indirect⟩
  case indirect =>
    rintro rfl
    rw [binaryOperands_first, binaryOperands_dst, decodeVal_indirect, decodeDst_indirect]

/-! ## A step at a known instruction -/

/-- R120: a step where the counter points at the encoding of a well-formed instruction runs that instruction. -/
theorem stepWith_of_encode (hasDiv : Bool) {s : State} {i : Instr} (hi : i.wellFormed = true)
    (hs : memRead s (pc s) = encode i) : stepWith hasDiv s = runDecoded hasDiv i (setPc s (offsetBy (pc s) 1)) := by
  rw [stepWith_eq, hs, decode_encode hi]

theorem stepWith_of_encode_offered {hasDiv : Bool} {s : State} {i : Instr} (hi : i.wellFormed = true)
    (hs : memRead s (pc s) = encode i) (hoff : i.offered hasDiv = true) :
    stepWith hasDiv s = exec i (setPc s (offsetBy (pc s) 1)) :=
  (stepWith_of_encode hasDiv hi hs).trans (runDecoded_offered _ hoff)

theorem stepWith_of_encode_not_offered {hasDiv : Bool} {s : State} {i : Instr} (hi : i.wellFormed = true)
    (hs : memRead s (pc s) = encode i) (hoff : i.offered hasDiv = false) :
    stepWith hasDiv s = .fault (.unimplementedOpcode i.opcode (setPc s (offsetBy (pc s) 1))) :=
  (stepWith_of_encode hasDiv hi hs).trans (runDecoded_not_offered _ hoff)

/-- The same for the step at the configured `HAS_DIV`. -/
theorem step_of_encode {s : State} {i : Instr} (hi : i.wellFormed = true) (hs : memRead s (pc s) = encode i)
    (hoff : i.offered Config.hasDiv = true) : step s = exec i (setPc s (offsetBy (pc s) 1)) :=
  stepWith_of_encode_offered hi hs hoff

/-- Settles O31: the offered and the withheld case of a step at a known instruction. -/
theorem stepRunsTheDecodedInstruction : Obligations.StepRunsTheDecodedInstruction :=
  fun _ _ _ hi hs => ⟨stepWith_of_encode_offered hi hs, stepWith_of_encode_not_offered hi hs, rfl⟩

/-! ## Stepping on after the error -/

/-- R212: the transaction raises only in the state after the instruction fetch. -/
theorem eq_setPc_of_hostStep_raises {s t : State} {e : CoreError} (hraise : hostStep s = .raises e t) :
    t = setPc s (offsetBy (pc s) 1) := by
  obtain ⟨_, _, hnext⟩ | ⟨_, hfault⟩ := stepWith_cases Config.hasDiv s
  · rw [hostStep_of_next hnext] at hraise
    cases hraise
  · rw [hostStep_of_fault hfault] at hraise
    cases hraise
    rfl

/-- Settles O35: the state left differs in the counter alone, so the next step fetches the tryte after the bad one. -/
theorem steppingOnAfterTheErrorSkipsTheTryte : Obligations.SteppingOnAfterTheErrorSkipsTheTryte := by
  intro s t sym i hraise hi hoff hnext hne
  rw [eq_setPc_of_hostStep_raises hraise]
  refine ⟨onlyMovesPc_setPc s _, ?_⟩
  have hread : memRead (setPc s (offsetBy (pc s) 1)) (pc (setPc s (offsetBy (pc s) 1))) = encode i := by
    rw [pc_setPc, memRead_setPc, if_neg hne, hnext]
  rw [step_of_encode hi hread hoff, pc_setPc, offsetBy_offsetBy]
  rfl

/-! ## The jump -/

theorem exec_jmp (h l : Tribble) (s : State) :
    exec (.jmp h l) s = .next (setPc s (offsetBy (pc s) (27 * dig h + dig l))) := rfl

/-- Settles O48: a jump is one write to the counter. -/
theorem jmpAddsTheTwoDigitOffset : Obligations.JmpAddsTheTwoDigitOffset :=
  fun h l s => ⟨_, exec_jmp h l s, onlyMovesPc_setPc s _⟩

/-- The later of two writes to the counter wins in every slot of the memory list. -/
theorem cellAt_setPc (s : State) (t : Tryte) (k : Nat) :
    cellAt (setPc s t).mem k = if k = unbiased pcAddr then t else cellAt s.mem k := by
  rw [setPc, mem_memWrite s t pcAddr_ne_zeroAddr, cellAt_setCell]

/-- Moving the counter away and back gives the same state where the memory list is canonical. -/
theorem setPc_setPc_pc {s : State} (hs : s.Inv) (t : Tryte) : setPc (setPc s t) (pc s) = s := by
  have hback := inv_setPc (pc s) (inv_setPc t hs)
  refine state_ext (eq_of_cellAt_eq hback.1 hs.1 fun k => ?_)
  rw [cellAt_setPc, cellAt_setPc]
  split
  · next hk => rw [hk, pc, memRead_eq_cellAt hs]
  · rfl

/-- Settles O50: the fetch moves the counter by one and the jump moves it back. -/
theorem selfJumpIsAFixedPoint : Obligations.SelfJumpIsAFixedPoint := by
  intro s hs hread
  have hoffset : 27 * dig 13 + dig 12 = -1 := rfl
  rw [step_of_encode rfl hread rfl, exec_jmp, pc_setPc, offsetBy_offsetBy, hoffset, Int.add_right_neg, offsetBy_zero,
    setPc_setPc_pc hs]

/-! ## The hook -/

theorem exec_hwi (h l : Tribble) (s : State) : exec (.hwi h l) s = .next s := rfl

/-- Settles O53: a step at the hook is its instruction fetch. -/
theorem hwiOnlyAdvancesTheCounter : Obligations.HwiOnlyAdvancesTheCounter :=
  fun h l s => ⟨exec_hwi h l s, fun hread =>
    ⟨_, (step_of_encode rfl hread rfl).trans (exec_hwi h l _), onlyMovesPc_setPc s _⟩⟩

end Sys2Proof.Proofs.Control

/-! PROOFS. The stack operations (rules R141 to R144): what a push and a pop leave at the stack register, at the stack
address and elsewhere, and that a pop undoes a push. -/

namespace Sys2Proof.Proofs.StackOperations

open Sys2Proof.Machine Sys2Proof.Proofs.Numeral Sys2Proof.Proofs.BinaryValue Sys2Proof.Proofs.SmallImmediate

/-! ## The operands -/

theorem onlyMovesPc_dstThenVal (h l : Operand) (s : State) :
    OnlyMovesPc s (decodeVal l (decodeDst h s).2).2 (offsetBy (pc s) (h.dstExt + l.valExt : Nat)) := by
  rw [Nat.cast_add, ← offsetBy_offsetBy, ← pc_decodeDst h s]
  exact onlyMovesPc_trans (onlyMovesPc_decodeDst h s) (onlyMovesPc_decodeVal l _)

theorem onlyMovesPc_dstThenDst (h l : Operand) (s : State) :
    OnlyMovesPc s (decodeDst l (decodeDst h s).2).2 (offsetBy (pc s) (h.dstExt + l.dstExt : Nat)) := by
  rw [Nat.cast_add, ← offsetBy_offsetBy, ← pc_decodeDst h s]
  exact onlyMovesPc_trans (onlyMovesPc_decodeDst h s) (onlyMovesPc_decodeDst l _)

/-! ## The push -/

/-- The stack register is written last, so it holds the moved address whatever the stack address is. -/
theorem memRead_pushAt_register {sa : Tryte} (v : Tryte) (s : State) (hsa : sa ≠ zeroAddr) :
    memRead (pushAt sa v s) sa = offsetBy (memRead s sa) Config.stackStep := by
  rw [memRead_pushAt, if_pos ⟨rfl, hsa⟩]

/-- The stack address holds the pushed value, unless it is the stack register's own cell, which is written after it. -/
theorem memRead_pushAt_stack {sa : Tryte} (v : Tryte) {s : State} (hp : memRead s sa ≠ sa ∨ sa = zeroAddr) :
    memRead (pushAt sa v s) (memRead s sa) = if memRead s sa = zeroAddr then Tryte.zero else v := by
  have hregister : ¬ (memRead s sa = sa ∧ sa ≠ zeroAddr) := fun ⟨heq, hsa⟩ => hp.elim (· heq) hsa
  rw [memRead_pushAt, if_neg hregister]
  by_cases hzero : memRead s sa = zeroAddr
  · rw [if_pos hzero, if_neg fun hboth => hboth.2 hzero, hzero, memRead_zeroAddr]
  · rw [if_neg hzero, if_pos ⟨rfl, hzero⟩]

theorem memRead_pushAt_other {sa b : Tryte} (v : Tryte) {s : State} (hp : b ≠ memRead s sa) (hsa : b ≠ sa) :
    memRead (pushAt sa v s) b = memRead s b := by
  rw [memRead_pushAt, if_neg fun hboth => hsa hboth.1, if_neg fun hboth => hp hboth.1]

/-! ## The three instructions -/

theorem exec_psh (h l : Operand) (s : State) :
    exec (.psh h l) s = .next (pushAt (decodeDst h s).1 (decodeVal l (decodeDst h s).2).1
      (decodeVal l (decodeDst h s).2).2) := rfl

theorem exec_cal (h l : Operand) (s : State) :
    exec (.cal h l) s = .next (setPc (pushAt (decodeDst h s).1 (pc (decodeVal l (decodeDst h s).2).2)
      (decodeVal l (decodeDst h s).2).2) (decodeVal l (decodeDst h s).2).1) := rfl

/-- What a pop leaves once its operands are decoded: the register `sa` written with `p`, then `d` with the cell at
`p`. -/
def popInto (sa d p : Tryte) (s : State) : State :=
  memWrite (memWrite s sa p) d (memRead (memWrite s sa p) p)

theorem exec_pop (h l : Operand) (s : State) :
    exec (.pop h l) s = .next (popInto (decodeDst h s).1 (decodeDst l (decodeDst h s).2).1
      (popAddress (decodeDst h s).1 (decodeDst l (decodeDst h s).2).2) (decodeDst l (decodeDst h s).2).2) := rfl

/-- Settles O36: the three cells of a push, in the state after the two decodes. -/
theorem pshStoresThenAdjusts : Obligations.PshStoresThenAdjusts := by
  intro h l s
  obtain ⟨hpc, hcells⟩ := onlyMovesPc_dstThenVal h l s
  refine ⟨_, exec_psh h l s, memRead_pushAt_register _ _, memRead_pushAt_stack _, fun hp hsa => ?counter,
    fun b hb => ?others⟩
  case counter => exact (memRead_pushAt_other _ hp.symm hsa.symm).trans hpc
  case others =>
    obtain ⟨hbpc, hbp, hbsa⟩ : b ∉ [pcAddr] ∧ b ≠ _ ∧ b ≠ _ := by simpa using hb
    rw [memRead_pushAt_other _ hbp hbsa, hcells b hbpc]

/-- Settles O38: a push of the counter after both decodes, and then a write to the counter, which wins there. -/
theorem calPushesTheReturnAddress : Obligations.CalPushesTheReturnAddress := by
  intro h l s
  obtain ⟨hpc, hcells⟩ := onlyMovesPc_dstThenVal h l s
  refine ⟨_, exec_cal h l s, pc_setPc _ _, fun hsa hsapc => ?register, fun hppc hp => ?stack, fun b hb => ?others⟩
  case register => rw [memRead_setPc, if_neg hsapc, memRead_pushAt_register _ _ hsa]
  case stack => rw [memRead_setPc, if_neg hppc, memRead_pushAt_stack _ hp, hpc]
  case others =>
    obtain ⟨hbpc, hbp, hbsa⟩ : b ≠ pcAddr ∧ b ≠ _ ∧ b ≠ _ := by simpa using hb
    rw [memRead_setPc, if_neg hbpc, memRead_pushAt_other _ hbp hbsa, hcells b (by simpa using hbpc)]

/-! ## The pop -/

/-- The destination is written last, with what the cell at `p` holds after the register was written: `p` itself where
that cell is the register's own. -/
theorem memRead_popInto_destination (sa d p : Tryte) (s : State) :
    memRead (popInto sa d p s) d =
      if d = zeroAddr then Tryte.zero else if p = sa ∧ sa ≠ zeroAddr then p else memRead s p := by
  by_cases hd : d = zeroAddr
  · rw [if_pos hd, hd, memRead_zeroAddr]
  · rw [if_neg hd, popInto, memRead_memWrite_same _ _ hd, memRead_memWrite]

theorem memRead_popInto_register {sa d : Tryte} (p : Tryte) (s : State) (hd : sa ≠ d) (hsa : sa ≠ zeroAddr) :
    memRead (popInto sa d p s) sa = p := by
  rw [popInto, memRead_memWrite_other _ _ hd, memRead_memWrite_same _ _ hsa]

theorem memRead_popInto_other {sa d b : Tryte} (p : Tryte) (s : State) (hsa : b ≠ sa) (hd : b ≠ d) :
    memRead (popInto sa d p s) b = memRead s b := by
  rw [popInto, memRead_memWrite_other _ _ hd, memRead_memWrite_other _ _ hsa]

/-- Settles O37: the cells of a pop, in the state after the two decodes. -/
theorem popAdjustsThenLoads : Obligations.PopAdjustsThenLoads := by
  intro h l s
  obtain ⟨hpc, hcells⟩ := onlyMovesPc_dstThenDst h l s
  refine ⟨_, exec_pop h l s, memRead_popInto_destination _ _ _ _, memRead_popInto_register _ _,
    fun hsa hd => ?counter, fun b hb => ?others⟩
  case counter => exact (memRead_popInto_other _ _ hsa.symm hd.symm).trans hpc
  case others =>
    obtain ⟨hbpc, hbsa, hbd⟩ : b ∉ [pcAddr] ∧ b ≠ _ ∧ b ≠ _ := by simpa using hb
    rw [memRead_popInto_other _ _ hbsa hbd, hcells b hbpc]

/-! ## A pop after a push -/

theorem addrOf_injective : Function.Injective addrOf :=
  fun _ _ h => dig_injective (congrArg Tryte.raw h)

/-- A register pop from a stack register that a push has left one `STACK_STEP` past `p` takes the register back to `p`
and loads the cell at `p`. -/
theorem pop_of_pushed {r y : Tribble} {w u : State} {p : Tryte} (hr : addrOf r ≠ zeroAddr) (hry : r ≠ y)
    (hy : addrOf y ≠ zeroAddr) (hp : p ≠ addrOf r) (hregister : regRead w r = offsetBy p Config.stackStep)
    (hpop : exec (.pop (.direct r) (.direct y)) w = .next u) : regRead u r = p ∧ regRead u y = memRead w p := by
  have hback : popAddress (addrOf r) w = p := by
    rw [popAddress, ← regRead, hregister, offsetBy_offsetBy, Int.add_right_neg, offsetBy_zero]
  rw [exec_pop] at hpop
  simp only [decodeDst_direct, hback] at hpop
  cases hpop
  refine ⟨memRead_popInto_register p w (addrOf_injective.ne hry) hr, ?_⟩
  rw [regRead, memRead_popInto_destination, if_neg hy, if_neg fun hboth => hp hboth.1]

/-- Settles O39: between the push and the pop only the fetch moves the counter, which is neither the register nor the
stack address. -/
theorem popUndoesPush : Obligations.PopUndoesPush := by
  intro r y l s t u hpc hzero hry hy hpr hppc hpzero hpush hpop
  obtain ⟨t', hpush', hregister, hstack, -, -⟩ := pshStoresThenAdjusts (.direct r) l s
  cases hpush.symm.trans hpush'
  simp only [decodeDst_direct, memRead_decodeVal_other l s hpc] at hregister hstack
  have hfetched : regRead (fetch t).2 r = offsetBy (regRead s r) Config.stackStep :=
    (memRead_fetch_other t hpc).trans (hregister hzero)
  obtain ⟨hback, hloaded⟩ := pop_of_pushed hzero hry hy hpr hfetched hpop
  refine ⟨hback, hloaded.trans ?_⟩
  rw [memRead_fetch_other t hppc]
  exact (hstack (.inl hpr)).trans (if_neg hpzero)

/-- Settles O40: the same pop, with the counter as its destination and the return address as the value pushed. -/
theorem returnUndoesCall : Obligations.ReturnUndoesCall := by
  intro r l s t u hpc hzero hpr hppc hpzero hcall hpop
  obtain ⟨t', hcall', -, hregister, hstack, -⟩ := calPushesTheReturnAddress (.direct r) l s
  cases hcall.symm.trans hcall'
  simp only [decodeDst_direct, memRead_decodeVal_other l s hpc] at hregister hstack
  have hfetched : regRead (fetch t).2 r = offsetBy (regRead s r) Config.stackStep :=
    (memRead_fetch_other t hpc).trans (hregister hzero hpc)
  have hsym : r ≠ Config.pcSym := fun h => hpc (congrArg addrOf h)
  obtain ⟨hback, hloaded⟩ := pop_of_pushed hzero hsym pcAddr_ne_zeroAddr hpr hfetched hpop
  refine ⟨hloaded.trans ?_, hback⟩
  rw [memRead_fetch_other t hppc]
  have hreturn := (hstack hppc (.inl hpr)).trans (if_neg hpzero)
  rwa [show (Operand.direct r).dstExt = 0 from rfl, Nat.zero_add] at hreturn

end Sys2Proof.Proofs.StackOperations

/-! PROOFS. The operations that do more than compute from two inputs: the fetched table (rule R157), the loads and
stores through a pointer (rules R158, R159), the quotient (rule R160), and the addition in place (rule R181). -/

namespace Sys2Proof.Proofs.MemoryOperations

open Sys2Proof.Machine Sys2Proof.Proofs.Stepping Sys2Proof.Proofs.BinaryValue Sys2Proof.Proofs.SmallImmediate
open Sys2Proof.Proofs.TritwiseLogic Sys2Proof.Proofs.Control

/-! ## What each instruction does -/

theorem exec_tri (h l : Operand) (s : State) :
    exec (.tri h l) s = .next (memWrite (fetch (binaryOperands h l s).after).2 (binaryOperands h l s).dst
      (genericTritwiseOp (binaryOperands h l s).first (binaryOperands h l s).second
        (tableOf (fetch (binaryOperands h l s).after).1))) := rfl

theorem exec_ldx (h l : Operand) (s : State) :
    exec (.ldx h l) s = .next (memWrite (binaryOperands h l s).after (binaryOperands h l s).dst
      (memRead (binaryOperands h l s).after (binaryOperands h l s).second)) := rfl

theorem exec_stx (h l : Operand) (s : State) :
    exec (.stx h l) s = .next (memWrite (binaryOperands h l s).after (binaryOperands h l s).first
      (binaryOperands h l s).second) := rfl

theorem exec_div (h l : Operand) (s : State) :
    exec (.div h l) s =
      binaryStore (fun a b => if b.raw = 0 then Tryte.zero else construct (Int.fdiv a.raw b.raw)) h l s := rfl

theorem exec_adi (h : Operand) (k : Tribble) (s : State) :
    exec (.adi h k) s = .next (memWrite (decodeDst h s).2 (decodeDst h s).1
      (construct ((memRead (decodeDst h s).2 (decodeDst h s).1).raw + dig k))) := rfl

/-- What any cell reads once only the counter has moved. -/
theorem memRead_of_onlyMovesPc {s t : State} {p : Tryte} (hmoved : OnlyMovesPc s t p) (a : Tryte) :
    memRead t a = if a = pcAddr then p else memRead s a := by
  obtain ⟨hpc, hcells⟩ := hmoved
  split
  · next ha => rw [ha, ← hpc, pc]
  · next ha => exact hcells a (by simpa using ha)

/-! ## The statements -/

/-- Settles O44: the table is one fetch after the operands, so the counter passes one tryte more than for them. -/
theorem triCombinesByTheFetchedTable : Obligations.TriCombinesByTheFetchedTable := by
  intro h l s o
  have hmoved : OnlyMovesPc s (fetch o.after).2 (offsetBy (pc s) (h.valExt + l.valExt + 1 : Nat)) := by
    have hoperands : OnlyMovesPc s o.after _ := onlyMovesPc_binaryOperands h l s
    rw [Nat.cast_add_one, ← offsetBy_offsetBy, ← hoperands.1]
    exact onlyMovesPc_trans hoperands (onlyMovesPc_fetch o.after)
  exact ⟨_, _, exec_tri h l s, storesAt_memWrite hmoved _ _, fun _ hi => trit_tritwise _ _ _ hi⟩

/-- Settles O45: the pointer is followed after the operands, which have moved the counter and nothing else. -/
theorem ldxLoadsThroughTheSecondInput : Obligations.LdxLoadsThroughTheSecondInput := by
  intro h l s o
  have hmoved := onlyMovesPc_binaryOperands h l s
  refine ⟨_, exec_ldx h l s, ?_⟩
  rw [memRead_of_onlyMovesPc hmoved]
  exact storesAt_memWrite hmoved _ _

/-- Settles O46: one store, to the address that is the first input. -/
theorem stxStoresThroughTheFirstInput : Obligations.StxStoresThroughTheFirstInput :=
  fun h l s => ⟨_, exec_stx h l s, storesAt_memWrite (onlyMovesPc_binaryOperands h l s) _ _⟩

/-- Settles O47: the stored function is the guarded quotient; whether a step runs it is whether divide is offered. -/
theorem divStoresTheGuardedQuotient : Obligations.DivStoresTheGuardedQuotient := by
  refine fun h l s => ⟨exec_storesAt_of_eq_binaryStore (exec_div h l s), fun hh hl hread => ?_⟩
  have hwf : (Instr.div h l).wellFormed = true := by simp [Instr.wellFormed, hh, hl]
  exact ⟨stepWith_of_encode_offered hwf hread rfl, stepWith_of_encode_not_offered hwf hread rfl⟩

/-- Settles O52: the destination is read and written after its own fetch, which has moved the counter and nothing
else. -/
theorem adiAddsTheDigitInPlace : Obligations.AdiAddsTheDigitInPlace := by
  intro h k s
  have hmoved := onlyMovesPc_decodeDst h s
  refine ⟨_, exec_adi h k s, ?_⟩
  rw [memRead_of_onlyMovesPc hmoved]
  exact storesAt_memWrite hmoved _ _

end Sys2Proof.Proofs.MemoryOperations

/-! PROOFS. The host's transactions on memory (rules R192 to R195, R199, R213): what an index denotes, what a load makes
of its text, which cells it writes, and that the invariant survives the host. -/

namespace Sys2Proof.Proofs.HostMemory

open Sys2Proof.Machine Sys2Proof.Proofs.Numeral Sys2Proof.Proofs.Invariant Sys2Proof.Proofs.HostInterface
open Sys2Proof.Proofs.Stepping
open Sys2Proof.Laws.FieldPlacement (tribbleString_ofSyms)

/-! ## What an index denotes -/

theorem resolve_raw {n : Int} (hn : -9841 ≤ n ∧ n ≤ 9841) :
    (Index.raw n).resolve = .address ⟨n, hn.1, hn.2⟩ := by
  rw [Index.resolve, dif_pos hn]

theorem resolve_raw_outside {n : Int} (hn : ¬ (-9841 ≤ n ∧ n ≤ 9841)) : (Index.raw n).resolve = .outside n := by
  rw [Index.resolve, dif_neg hn]

theorem resolve_tribbleText (a : Tryte) : (Index.text (tribbleText a)).resolve = .address a := by
  rw [Index.resolve, (fromTribbles_eq_ok_iff _ a).mpr rfl]

theorem resolve_text_of_error {chars : List Char} {e : DecodeError Char} (he : fromTribbles chars = .error e) :
    (Index.text chars).resolve = .malformed e := by
  rw [Index.resolve, he]

section
variable {α : Type} {i : Index} {s t : State} {f : Tryte → Transaction α}

theorem onAddress_of_address {a : Tryte} (hi : i.resolve = .address a) : onAddress i s f = f a := by
  rw [onAddress, hi]

theorem onAddress_of_malformed {e : DecodeError Char} (hi : i.resolve = .malformed e) :
    onAddress i s f = .raises (.decode e) s := by
  rw [onAddress, hi]

theorem onAddress_of_outside {n : Int} (hi : i.resolve = .outside n) :
    onAddress i s f = .refused (.indexOutsideDomain n) := by
  rw [onAddress, hi]

/-- A transaction that completes did so at an address. -/
theorem exists_address_of_completes {r : α} (h : onAddress i s f = .completes r t) :
    ∃ a, i.resolve = .address a := by
  cases hi : i.resolve with
  | address a => exact ⟨a, rfl⟩
  | malformed e => cases (onAddress_of_malformed hi).symm.trans h
  | outside n => cases (onAddress_of_outside hi).symm.trans h

/-- A transaction that raises did so on its index, changing nothing, or at an address. -/
theorem cases_of_raises {e : CoreError} (h : onAddress i s f = .raises e t) :
    (∃ d, e = .decode d ∧ t = s) ∨ ∃ a, i.resolve = .address a := by
  cases hi : i.resolve with
  | address a => exact .inr ⟨a, rfl⟩
  | malformed d =>
    cases (onAddress_of_malformed hi).symm.trans h
    exact .inl ⟨d, rfl, rfl⟩
  | outside n => cases (onAddress_of_outside hi).symm.trans h

end

/-! ## Writing and reading -/

theorem hostWrite_of_address {i : Index} {a : Tryte} (hi : i.resolve = .address a) (s : State) (v : Tryte) :
    hostWrite s i v = .completes () (memWrite s a v) := onAddress_of_address hi

theorem hostRead_of_address {i : Index} {a : Tryte} (hi : i.resolve = .address a) (s : State) :
    hostRead s i = .completes (memRead s a) s := onAddress_of_address hi

/-- The cell `b` after a write at `a`, the zero register's dropped write included (D19). -/
theorem memRead_memWrite_eq_ite (s : State) (a v b : Tryte) :
    memRead (memWrite s a v) b =
      if b = a then (if a = zeroAddr then Tryte.zero else v) else memRead s b := by
  by_cases hb : b = a
  · rw [if_pos hb, hb]
    by_cases ha : a = zeroAddr
    · rw [if_pos ha, ha, memRead_zeroAddr]
    · rw [if_neg ha, memRead_memWrite_same s v ha]
  · rw [if_neg hb, memRead_memWrite_other s v hb]

/-- Settles O54: a good index gives the write and the read their address; a bad one ends every transaction alike. -/
theorem hostWriteThenRead : Obligations.HostWriteThenRead := by
  refine ⟨fun s i j a b v hi hj => ⟨_, hostWrite_of_address hi s v, ?readBack⟩, fun n => ⟨?inside, ?outside⟩,
    resolve_tribbleText, fun s chars e he v text => ?malformed⟩
  case readBack => rw [hostRead_of_address hj, memRead_memWrite_eq_ite]
  case inside => exact fun hn => ⟨_, resolve_raw hn, rfl⟩
  case outside =>
    intro hn s v text
    have hi := resolve_raw_outside hn
    exact ⟨onAddress_of_outside hi, onAddress_of_outside hi, onAddress_of_outside hi⟩
  case malformed =>
    have hi := resolve_text_of_error he
    exact ⟨onAddress_of_malformed hi, onAddress_of_malformed hi, onAddress_of_malformed hi⟩

/-! ## Cleaning a text -/

/-- The white-space characters by their codes (rule R195). -/
theorem mem_whiteSpace_iff (c : Char) : c ∈ whiteSpace ↔ c.toNat ∈ [9, 10, 11, 12, 13, 32] := by
  have hcodes : ∀ d ∈ whiteSpace, d.toNat ∈ [9, 10, 11, 12, 13, 32] := by simp [whiteSpace]
  have hchars : ∀ n ∈ [9, 10, 11, 12, 13, 32], Char.ofNat n ∈ whiteSpace := by decide
  exact ⟨hcodes c, fun hc => Char.ofNat_toNat c ▸ hchars _ hc⟩

/-- Lower case is a range of codes, and the letters are all of it. -/
theorem mem_lowerCaseLetters_of_isLowerCase {c : Char} (hc : isLowerCase c = true) : c ∈ lowerCaseLetters := by
  have hrange : ∀ k < 26, Char.ofNat (97 + k) ∈ lowerCaseLetters := by decide
  obtain ⟨hl, hu⟩ : 97 ≤ c.toNat ∧ c.toNat ≤ 122 := by simpa [isLowerCase] using hc
  have hletter := hrange (c.toNat - 97) (by omega)
  rwa [Nat.add_sub_cancel' hl, Char.ofNat_toNat] at hletter

theorem cleanText_cons_of_whiteSpace {c : Char} (hc : c ∈ whiteSpace) (rest : List Char) :
    cleanText (c :: rest) = cleanText rest := by
  simp [cleanText, hc]

theorem cleanText_cons_of_not_whiteSpace {c : Char} (hc : c ∉ whiteSpace) (rest : List Char) :
    cleanText (c :: rest) = upperCase c :: cleanText rest := by
  simp [cleanText, hc]

/-- No letter is white space, and `upperCase` maps each lower-case letter to its partner. -/
theorem upperCase_of_mem_zip :
    ∀ p ∈ List.zip lowerCaseLetters upperCaseLetters, p.1 ∉ whiteSpace ∧ upperCase p.1 = p.2 := by decide

theorem upperCase_of_not_letter {c : Char} (hc : c ∉ lowerCaseLetters) : upperCase c = c :=
  if_neg fun hlower => hc (mem_lowerCaseLetters_of_isLowerCase hlower)

/-- Settles O56: the head is dropped or kept, and a kept one is a letter's upper case or itself. -/
theorem cleaningDropsWhiteSpaceAndFoldsCase : Obligations.CleaningDropsWhiteSpaceAndFoldsCase := by
  refine ⟨rfl, fun c rest => ⟨fun hc => ?white, fun u hu => ?letter, fun hc hletter => ?other⟩⟩
  case white => exact cleanText_cons_of_whiteSpace ((mem_whiteSpace_iff c).mpr hc) rest
  case letter =>
    obtain ⟨hc, hupper⟩ := upperCase_of_mem_zip (c, u) hu
    rw [cleanText_cons_of_not_whiteSpace hc, hupper]
  case other =>
    rw [cleanText_cons_of_not_whiteSpace (mt (mem_whiteSpace_iff c).mp hc), upperCase_of_not_letter hletter]

/-! ## Parsing a cleaned text -/

/-- The alphabet holds the characters of the 27 symbols and no other (rule R93). -/
theorem mem_alphabet_iff (c : Char) : c ∈ Config.alphabet ↔ c ∈ Set.range symChar := by
  have halphabet : Config.alphabet = (List.finRange 27).map symChar := by decide
  rw [halphabet, List.mem_map]
  exact ⟨fun ⟨p, _, hp⟩ => ⟨p, hp⟩, fun ⟨p, hp⟩ => ⟨p, List.mem_finRange p, hp⟩⟩

/-- A text over the alphabet is the text of a list of symbols. -/
theorem forall_mem_alphabet_iff (cs : List Char) :
    (∀ c ∈ cs, c ∈ Config.alphabet) ↔ ∃ syms : List Tribble, cs = syms.map symChar := by
  have hrange : cs ∈ Set.range (List.map symChar) ↔ ∀ c ∈ cs, c ∈ Set.range symChar := by
    rw [Set.range_list_map]
    rfl
  simp only [mem_alphabet_iff]
  exact hrange.symm.trans (exists_congr fun _ => eq_comm)

theorem convertAll_symOfChar_eq_ok_iff (position : Nat) (cs : List Char) (syms : List Tribble) :
    convertAll symOfChar position cs = .ok syms ↔ cs = syms.map symChar := by
  have hsym : ∀ c p, symOfChar c = some p ↔ ∃ s : Tribble, c = symChar s ∧ p = id s := by
    simp [symOfChar_eq_some_iff]
  simp [convertAll_eq_ok_iff hsym, List.map_id]

/-- Everything the loader accepts: whole groups of three symbols. -/
theorem parseText_eq_ok_iff (text : List Char) (ts : List Tryte) :
    parseText text = .ok ts ↔
      (cleanText text).length % 3 = 0 ∧ ∃ syms : List Tribble, cleanText text = syms.map symChar ∧
        ts = tryteGroups syms := by
  simp only [← convertAll_symOfChar_eq_ok_iff 0]
  unfold parseText
  split
  · next hlen =>
    cases convertAll symOfChar 0 (cleanText text) with
    | ok syms => simp [hlen, eq_comm]
    | error e => simp
  · next hlen => simp [hlen]

theorem exists_parseText_eq_ok_iff (text : List Char) :
    (∃ ts, parseText text = .ok ts) ↔
      (cleanText text).length % 3 = 0 ∧ ∀ c ∈ cleanText text, c ∈ Config.alphabet := by
  rw [forall_mem_alphabet_iff]
  constructor
  · rintro ⟨ts, hts⟩
    obtain ⟨hlen, syms, hsyms, -⟩ := (parseText_eq_ok_iff text ts).mp hts
    exact ⟨hlen, syms, hsyms⟩
  · rintro ⟨hlen, syms, hsyms⟩
    exact ⟨_, (parseText_eq_ok_iff text _).mpr ⟨hlen, syms, hsyms, rfl⟩⟩

/-- The trytes of whole groups of symbols spell these symbols. -/
theorem flatten_tribbleText_tryteGroups :
    ∀ {syms : List Tribble}, syms.length % 3 = 0 →
      ((tryteGroups syms).map tribbleText).flatten = syms.map symChar
  | [], _ => rfl
  | p2 :: p1 :: p0 :: rest, hlen => by
    have hrest : rest.length % 3 = 0 := by
      simp only [List.length_cons] at hlen
      omega
    rw [tryteGroups, List.map_cons, List.flatten_cons, flatten_tribbleText_tryteGroups hrest, tribbleText,
      tribbleString_ofSyms]
    rfl

theorem parseText_of_length {text : List Char} (hlen : (cleanText text).length % 3 ≠ 0) :
    parseText text = .error .badLength := if_neg hlen

/-- A text of a good length is refused for no other reason than an unknown character. -/
theorem parseText_of_not_ok {text : List Char} (hlen : (cleanText text).length % 3 = 0)
    (hbad : ¬ ∃ ts, parseText text = .ok ts) : parseText text = .error .unknownSymbol := by
  unfold parseText at hbad ⊢
  rw [if_pos hlen] at hbad ⊢
  cases hsyms : convertAll symOfChar 0 (cleanText text) with
  | ok syms => exact absurd ⟨tryteGroups syms, by rw [hsyms]⟩ hbad
  | error e => rfl

/-- Settles O57: the accepted texts, what their trytes spell, and the two errors. -/
theorem loaderAcceptsExactlyTribbleText : Obligations.LoaderAcceptsExactlyTribbleText := by
  refine fun text => ⟨exists_parseText_eq_ok_iff text, fun ts hts => ?spells, parseText_of_length,
    fun hlen ⟨c, hc, hunknown⟩ => parseText_of_not_ok hlen fun hok => ?contradiction⟩
  case spells =>
    obtain ⟨hlen, syms, hsyms, rfl⟩ := (parseText_eq_ok_iff text ts).mp hts
    rw [hsyms, List.length_map] at hlen
    rw [hsyms, flatten_tribbleText_tryteGroups hlen]
  case contradiction => exact hunknown (((exists_parseText_eq_ok_iff text).mp hok).2 c hc)

/-! ## Loading -/

/-- Everything a load can do at its base address (rule R195): it writes every tryte, or raises with nothing written. -/
theorem hostLoad_cases {base : Index} {a : Tryte} (hbase : base.resolve = .address a) (s : State) (text : List Char) :
    (∃ ts, parseText text = .ok ts ∧ hostLoad s base text = .completes ts.length (writeTrytes s a ts)) ∨
      ∃ e, parseText text = .error e ∧ hostLoad s base text = .raises (.loader e) s := by
  rw [hostLoad, onAddress_of_address hbase]
  cases parseText text with
  | ok ts => exact .inl ⟨ts, rfl, rfl⟩
  | error e => exact .inr ⟨e, rfl, rfl⟩

/-- Addresses less than a whole memory apart are different. -/
theorem offsetBy_ne_self (a : Tryte) {n : Int} (hpos : 0 < n) (hlt : n < 19683) : a ≠ offsetBy a n := by
  intro h
  have hraw := congrArg Tryte.raw h
  have hl := a.lower
  have hu := a.upper
  rw [offsetBy, raw_norm] at hraw
  omega

theorem offsetBy_one_offsetBy (a : Tryte) (k : Nat) : offsetBy (offsetBy a 1) k = offsetBy a (k + 1 : Nat) := by
  rw [offsetBy_offsetBy, Nat.cast_add_one, add_comm]

/-- Cells outside the written range are as before. -/
theorem memRead_writeTrytes_other {b : Tryte} (ts : List Tryte) (s : State) (a : Tryte)
    (hb : ∀ k, k < ts.length → b ≠ offsetBy a k) : memRead (writeTrytes s a ts) b = memRead s b := by
  induction ts generalizing s a with
  | nil => rfl
  | cons v vs ih =>
    have hhead : b ≠ a := by simpa [offsetBy_zero] using hb 0 (Nat.succ_pos _)
    have htail : ∀ k, k < vs.length → b ≠ offsetBy (offsetBy a 1) k := by
      intro k hk
      rw [offsetBy_one_offsetBy]
      exact hb (k + 1) (Nat.succ_lt_succ hk)
    rw [writeTrytes, ih _ _ htail, memRead_memWrite_other s v hhead]

/-- The `k`-th tryte is read at `k` cells past the base: no later one overwrites it where they all fit. -/
theorem memRead_writeTrytes {ts : List Tryte} {k : Nat} {v : Tryte} (s : State) (a : Tryte)
    (hlen : ts.length ≤ 19683) (hk : ts[k]? = some v) :
    memRead (writeTrytes s a ts) (offsetBy a k) = if offsetBy a k = zeroAddr then Tryte.zero else v := by
  induction ts generalizing s a k with
  | nil => simp at hk
  | cons w ws ih =>
    rw [List.length_cons] at hlen
    cases k with
    | zero =>
      cases hk
      rw [Nat.cast_zero, offsetBy_zero, writeTrytes, memRead_writeTrytes_other, memRead_memWrite_eq_ite, if_pos rfl]
      intro j hj
      rw [offsetBy_one_offsetBy]
      exact offsetBy_ne_self a (by omega) (by omega)
    | succ j =>
      rw [writeTrytes, ← offsetBy_one_offsetBy]
      exact ih _ _ (by omega) hk

/-- Settles O55: a completed load is the writing of the trytes. -/
theorem loadWritesConsecutiveCells : Obligations.LoadWritesConsecutiveCells := by
  intro s t base a text ts n hbase hparse hlen hload
  obtain ⟨ts', hparse', hcompletes⟩ | ⟨e, hparse', -⟩ := hostLoad_cases hbase s text
  · cases hparse.symm.trans hparse'
    cases hload.symm.trans hcompletes
    exact ⟨rfl, fun k v hk => memRead_writeTrytes s a hlen hk, fun b hb => memRead_writeTrytes_other ts s a hb⟩
  · cases hparse.symm.trans hparse'

/-- Settles O58: a load raises on its index or on its text, before it writes. -/
theorem failedLoadLeavesMemoryUnchanged : Obligations.FailedLoadLeavesMemoryUnchanged := by
  intro s t base text e hraise
  obtain ⟨d, rfl, rfl⟩ | ⟨a, hbase⟩ := cases_of_raises hraise
  · exact ⟨rfl, .inl rfl⟩
  · obtain ⟨ts, -, hcompletes⟩ | ⟨_, -, hraises⟩ := hostLoad_cases hbase s text
    · cases hraise.symm.trans hcompletes
    · cases hraise.symm.trans hraises
      exact ⟨rfl, .inr rfl⟩

/-! ## The invariant -/

theorem inv_of_hostWrite_completes {s t : State} {i : Index} {v : Tryte} (hs : s.Inv)
    (hwrite : hostWrite s i v = .completes () t) : t.Inv := by
  obtain ⟨a, hi⟩ := exists_address_of_completes hwrite
  cases hwrite.symm.trans (hostWrite_of_address hi s v)
  exact inv_memWrite a v hs

theorem inv_of_hostLoad_completes {s t : State} {i : Index} {text : List Char} {n : Nat} (hs : s.Inv)
    (hload : hostLoad s i text = .completes n t) : t.Inv := by
  obtain ⟨a, hi⟩ := exists_address_of_completes hload
  obtain ⟨ts, -, hcompletes⟩ | ⟨e, -, hraises⟩ := hostLoad_cases hi s text
  · cases hload.symm.trans hcompletes
    exact inv_writeTrytes a ts hs
  · cases hload.symm.trans hraises

theorem inv_of_hostStep_completes {s t : State} (hs : s.Inv) (hstep : hostStep s = .completes () t) : t.Inv := by
  obtain ⟨_, u, hnext⟩ | ⟨_, hfault⟩ := stepWith_cases Config.hasDiv s
  · cases (hostStep_of_next hnext).symm.trans hstep
    exact inv_of_step_next hs hnext
  · cases (hostStep_of_fault hfault).symm.trans hstep

theorem inv_of_runUntil_completes {endAddr : Tryte} {n : Nat} {s t : State} (hs : s.Inv)
    (hrun : runUntil endAddr n s = .completes () t) : t.Inv := by
  induction n generalizing s with
  | zero =>
    cases hrun
    exact hs
  | succ n ih =>
    rw [runUntil] at hrun
    split at hrun
    · cases hrun
      exact hs
    · split at hrun
      · next hstep => exact ih (inv_of_hostStep_completes hs hstep) hrun
      · cases hrun
      · cases hrun

/-- Settles O20: a write, a load and a run are chains of writes and completed steps. -/
theorem hostTransactionsKeepTheInvariant : Obligations.HostTransactionsKeepTheInvariant :=
  fun _ hs => ⟨fun _ _ _ => inv_of_hostWrite_completes hs, fun _ _ _ _ => inv_of_hostLoad_completes hs,
    fun _ _ _ => inv_of_runUntil_completes hs⟩

end Sys2Proof.Proofs.HostMemory
